-- ==== Sys2Proof/Word.lean ====
section
/-! DEFINITION. The word types of IHEXRX and their plainest conversions: bytes (data width 8 bits everywhere, spec/00_scope.md R2), nibbles (the glossary's "4-bit half of a byte") and the 16-bit record address (spec/10_state.md R18). -/

namespace Sys2Proof

/-- One byte: the data width is 8 bits everywhere (spec/00_scope.md R2). -/
abbrev Byte := BitVec 8

/-- One nibble, bit 3 the most significant. -/
abbrev Nibble := BitVec 4

/-- The 16-bit record address (spec/20_memory.md R41). -/
abbrev Addr := BitVec 16

/-- One bit as a number, for the vectors and the 1-bit ports. -/
def bit (b : Bool) : Nat := if b then 1 else 0

end Sys2Proof
end

