-- ==== Sys2Proof/Config.lean ====
section
/-! DEFINITION. The configuration record of spec/00_scope.md R2, what the environment chooses at each edge (R3), and the free values: opaque constants with no body, of which nothing can be proved but what holds of every value. -/

namespace Sys2Proof

/-- The least `k` with `n ≤ 2^k`: `ceil(log2 n)` of spec/00_scope.md R2, for `n ≥ 1`. -/
def ceilLog2 (n : Nat) : Nat := if n ≤ 1 then 0 else Nat.log2 (n - 1) + 1

/-- The implementation parameters (spec/00_scope.md R2). The constraints of the table are fields, so that a
configuration that breaks one is no value of this type (spec/93_implementation_defined.md U6; log 9). -/
structure Config where
  /-- `RX_AW`, address width of `rxq`. -/
  rxAw : Nat
  /-- `TX_AW`, address width of `txq`. -/
  txAw : Nat
  /-- `ST_DEPTH`, capacity of the staging queue; any number from 1, a power of two or not. -/
  stDepth : Nat
  /-- `PAGE_SIZE`, capacity of the page buffer in bytes. -/
  pageSize : Nat
  /-- `RESYNC_ON_COLON`. -/
  resyncOnColon : Bool
  /-- `ERR_ECHO`. -/
  errEcho : Bool
  /-- `DIAG_EOF`. -/
  diagEof : Byte
  /-- `DIAG_FRAMING`. -/
  diagFraming : Byte
  /-- `DIAG_CHECKSUM`. -/
  diagChecksum : Byte
  /-- `DIAG_RECTYPE`. -/
  diagRectype : Byte
  rxAw_pos : 1 ≤ rxAw
  txAw_pos : 1 ≤ txAw
  stDepth_pos : 1 ≤ stDepth
  pageSize_min : 255 ≤ pageSize
  deriving DecidableEq, Repr

/-- The defaults of the table of spec/00_scope.md R2. -/
def Config.default : Config where
  rxAw := 6
  txAw := 4
  stDepth := 64
  pageSize := 256
  resyncOnColon := false
  errEcho := false
  diagEof := 0x2E
  diagFraming := 0x3F
  diagChecksum := 0x21
  diagRectype := 0x23
  rxAw_pos := by decide
  txAw_pos := by decide
  stDepth_pos := by decide
  pageSize_min := by decide

/-- `ST_CW = max(1, ceil(log2(ST_DEPTH)))`, the width of the staging cursors. -/
def Config.stCw (c : Config) : Nat := max 1 (ceilLog2 c.stDepth)

/-- `ST_NW = ceil(log2(ST_DEPTH + 1))`, the width of the staging count. -/
def Config.stNw (c : Config) : Nat := ceilLog2 (c.stDepth + 1)

/-- `PG_LW = ceil(log2(PAGE_SIZE + 1))`, the width of the page length. -/
def Config.pgLw (c : Config) : Nat := ceilLog2 (c.pageSize + 1)

/-- The four byte arrays of the block (spec/20_memory.md R40). -/
inductive ArrayId where
  | rxqMem
  | txqMem
  | stqMem
  | pgData
  deriving DecidableEq, Repr

/-- What the environment chooses for one step (spec/00_scope.md R3): which domain's edge happens, or `Reset`,
the inputs of that edge, and for each crossing signal the edge samples whether a change that has just happened is
missed (`late`: the old value is captured, spec/40_bytequeue.md R96). A `late` on a signal that has not changed
has no effect. -/
inductive EnvStep where
  /-- An edge of `clk_rx` with `rx_valid` and `rx_data`; `late` is the choice at `Sample(rxq.rgray)`. -/
  | rx (valid : Bool) (data : Byte) (late : Bool)
  /-- An edge of `clk_core` with `parser_clr`; the choices at `Sample(rxq.wgray)` and `Sample(txq.rgray)`. -/
  | core (clr : Bool) (lateRx lateTx : Bool)
  /-- An edge of `clk_tx` with `tx_ready`; the choices at `Sample(txq.wgray)` and `Sample(arm_req)`. -/
  | tx (ready : Bool) (lateTx lateArm : Bool)
  /-- `rst` asserted. -/
  | rst
  deriving DecidableEq, Repr, Inhabited

/-- FREE VALUE (log 4). The arbitrary byte that slot `i` of an array holds from power-on until it is written
(spec/70_reset_and_hazards.md R221, spec/93_implementation_defined.md U1, U3). -/
opaque Config.powerOnByte : ArrayId → Nat → Byte

/-- FREE VALUE (log 5). The arbitrary byte `tx_data` holds after the `n`-th reset
(spec/70_reset_and_hazards.md R221, spec/93_implementation_defined.md U2). -/
opaque Config.txDataDraw : Nat → Byte

/-- FREE VALUE (log 6). What `pg_rdata` shows for an index at or above `PAGE_SIZE`
(spec/10_state.md R22, spec/93_implementation_defined.md U4). -/
opaque Config.outsidePageByte : Nat → Byte

/-- FREE CHOICE (log 2). What the environment does at its `n`-th step of its own, when nothing has been placed
for it (spec/00_scope.md R3, spec/93_implementation_defined.md U9). -/
opaque Config.environment : Nat → EnvStep

end Sys2Proof
end

