-- ==== Sys2Proof/Syntax.lean ====
section
/-! DEFINITION. The operations of the block, one constructor of `Instr` for each mnemonic of spec/opcode_table.json (spec/30_encoding.md R66, R67, R70, R71), with the operands the rules name. -/

namespace Sys2Proof

/-- The two asynchronous FIFOs (spec/40_bytequeue.md R81). -/
inductive QueueId where
  | rxq
  | txq
  deriving DecidableEq, Repr

/-- The causes of an entry into Error (spec/60_exceptions.md R195); `err_cause = 0` is the absence of one. -/
inductive Cause where
  | framing
  | checksum
  | recType
  deriving DecidableEq, Repr

/-- The four places a synchroniser update happens (spec/40_bytequeue.md R95): which FIFO, and which side's
view of the other side is updated. -/
inductive Side where
  | rxqWrite
  | rxqRead
  | txqWrite
  | txqRead
  deriving DecidableEq, Repr

/-- The five crossing signals (spec/10_state.md R20). -/
inductive Crossing where
  | rxqWgray
  | rxqRgray
  | txqWgray
  | txqRgray
  | armReq
  deriving DecidableEq, Repr

/-- The three counts of an asynchronous FIFO (spec/40_bytequeue.md R92). -/
inductive CountKind where
  | write
  | read
  | truth
  deriving DecidableEq, Repr

/-- The parser states, in the order of their codes 0 to 7 (spec/10_state.md R16). -/
inductive PState where
  | init
  | byteCount
  | address
  | recordType
  | data
  | checksum
  | endState
  | error
  deriving DecidableEq, Repr

/-- The sequencer's phases, codes 0, 1, 2 (spec/10_state.md R15). Three values and no fourth, as
spec/93_implementation_defined.md U7 advises (log 8). -/
inductive Phase where
  | pump
  | parse
  | arm
  deriving DecidableEq, Repr

/-- The operations of the opcode table. -/
inductive Instr where
  -- format PSTEP (spec/30_encoding.md R66): the parser's step on the consumed byte `b`
  | pInitSkip (b : Byte)
  | pInitStart
  | pInitBad (b : Byte)
  | pBcNib (b : Byte)
  | pBcBad (b : Byte)
  | pAddrNib (b : Byte)
  | pAddrBad (b : Byte)
  | pRtNib (b : Byte)
  | pRtBad (b : Byte)
  | pDataNib (b : Byte)
  | pDataBad (b : Byte)
  | pCkNib (b : Byte)
  | pCkBad (b : Byte)
  | pEndAny (b : Byte)
  | pErrAny (b : Byte)
  | pErrResync
  -- format RECTYPE (R67): the kind of the record with type byte `t`
  | recData
  | recEof
  | recUnsupported (t : Byte)
  -- format RXEDGE (R70)
  | rxPush (d : Byte)
  | rxDrop (d : Byte)
  | rxIdle
  -- format COREEDGE (R70)
  | coreClr
  | corePumpMove
  | corePumpDone
  | coreParse
  | coreParseNop
  | coreArm
  -- format TXEDGE (R70)
  | txSend
  | txPark
  | txIdle
  -- format QOP (R70)
  | stqEnq (b : Byte)
  | stqDeq
  | aqPush (q : QueueId) (b : Byte)
  | aqPop (q : QueueId)
  -- format RST (R70)
  | reset
  -- format HELPER (R71): step functions and helpers, which have no encoding
  | rxEdge (valid : Bool) (data : Byte) (late : Bool)
  | txEdge (ready lateTx lateArm : Bool)
  | coreEdge (clr lateRx lateTx : Bool)
  | parserStep (b : Byte)
  | hexDecode (b : Byte)
  | takeNibble (v : Nibble)
  | resetPending
  | startRecord
  | cksumClear
  | cksumAdd (y : Byte)
  | beginPage
  | appendByte (y : Byte)
  | commit
  | enterError (c : Cause)
  | diagPush (b : Byte)
  | aqSync (side : Side) (late : Bool)
  | armSync (late : Bool)
  | sample (x : Crossing) (late : Bool)
  | stqLen
  | aqLen (q : QueueId) (k : CountKind)
  deriving DecidableEq, Repr

end Sys2Proof
end

