-- ==== Sys2Proof/Machine/Operands.lean ====
section
/-! DEFINITION. The operand forms of the block: symbol classes (spec/30_encoding.md R63), the nibble decoder (spec/43_parser.md R130, R131), byte assembly (R65), the codes of the enumerations (spec/10_state.md R15, R16, R18) and the Gray code of the FIFO pointers (spec/00_scope.md section 6). -/

namespace Sys2Proof.Machine

/-- The symbol classes of spec/30_encoding.md R63. -/
inductive SymbolClass where
  | lf
  | cr
  | digit
  | colon
  | upper
  | lower
  | other
  deriving DecidableEq, Repr

/-- The class of a byte (spec/30_encoding.md R63). -/
def symbolClass (b : Byte) : SymbolClass :=
  if b = 0x0A then .lf
  else if b = 0x0D then .cr
  else if 0x30 ≤ b ∧ b ≤ 0x39 then .digit
  else if b = 0x3A then .colon
  else if 0x41 ≤ b ∧ b ≤ 0x46 then .upper
  else if 0x61 ≤ b ∧ b ≤ 0x66 then .lower
  else .other

/-- "The classes DIGIT, UPPER and LOWER together are called HEX" (spec/30_encoding.md R63). -/
def isHex (b : Byte) : Bool :=
  match symbolClass b with
  | .digit => true
  | .upper => true
  | .lower => true
  | .lf => false
  | .cr => false
  | .colon => false
  | .other => false

/-- `HexDecode(b)`: whether `b` is a hex character, and its nibble; the sentinel for every other byte
(spec/43_parser.md R130, R131). -/
def hexDecode (b : Byte) : Bool × Nibble :=
  if 0x30 ≤ b ∧ b ≤ 0x39 then (true, (b - 0x30).setWidth 4)
  else if 0x41 ≤ b ∧ b ≤ 0x46 then (true, (b - 0x37).setWidth 4)
  else if 0x61 ≤ b ∧ b ≤ 0x66 then (true, (b - 0x57).setWidth 4)
  else (false, 0xF)

/-- The nibble value of a hex character; the sentinel's low half for any other byte, which no rule uses. -/
def nibbleOf (b : Byte) : Nibble := (hexDecode b).2

/-- The 8-bit decode result of spec/43_parser.md R131: the nibble, or 0xFF for a byte that is no hex character. -/
def hexResult (b : Byte) : Byte :=
  (if (hexDecode b).1 then (0x0 : Nibble) else 0xF) ++ (hexDecode b).2

/-- `bin2gray(b)` (spec/00_scope.md section 6). -/
def bin2gray (b : Nat) : Nat := b ^^^ (b >>> 1)

/-- `gray2bin(g)` on `n`-bit values (spec/00_scope.md section 6): the top bit is the top bit of `g`, and each
lower bit is the result's bit above it exclusive-or the bit of `g`. -/
def gray2bin : Nat → Nat → Nat
  | 0, _ => 0
  | n + 1, g => 2 * gray2bin n (g >>> 1) + (gray2bin n (g >>> 1) + g) % 2

/-- The code of `pstate`, as `pstate_o` carries it (spec/10_state.md R16). -/
def pstateCode : PState → BitVec 3
  | .init => 0
  | .byteCount => 1
  | .address => 2
  | .recordType => 3
  | .data => 4
  | .checksum => 5
  | .endState => 6
  | .error => 7

/-- The parser state of a code: all eight codes are used (spec/10_state.md R16). -/
def pstateOfCode (n : Nat) : PState :=
  match n with
  | 0 => .init
  | 1 => .byteCount
  | 2 => .address
  | 3 => .recordType
  | 4 => .data
  | 5 => .checksum
  | 6 => .endState
  | _ => .error

/-- The code of `phase` (spec/10_state.md R15). -/
def phaseCode : Phase → BitVec 2
  | .pump => 0
  | .parse => 1
  | .arm => 2

/-- The code of a cause in `err_cause` (spec/60_exceptions.md R195). -/
def causeCode : Cause → BitVec 2
  | .framing => 1
  | .checksum => 2
  | .recType => 3

/-- The code of `err_cause`: 0 when no error is recorded (spec/10_state.md R18). -/
def errCauseCode : Option Cause → BitVec 2
  | none => 0
  | some c => causeCode c

end Sys2Proof.Machine
end

