-- ==== Sys2Proof/WellFormed.lean ====
section
/-! DEFINITION. Which terms of `Instr` are operations of the opcode table: the byte of a parser row lies in the row's symbol classes (spec/30_encoding.md R66), and the type of an unsupported record is 0x02 to 0xFF (R67). The parameter `RESYNC_ON_COLON` decides between the two rows at `7:0x3A` (R71). -/

namespace Sys2Proof

/-- The operand checks of an instruction under the value `resync` of `RESYNC_ON_COLON`. -/
def Instr.wf (resync : Bool) : Instr → Bool
  | .pInitSkip b => b == 0x0D || b == 0x0A
  | .pInitStart => true
  | .pInitBad b => b != 0x3A && b != 0x0D && b != 0x0A
  | .pBcNib b => Machine.isHex b
  | .pBcBad b => !Machine.isHex b
  | .pAddrNib b => Machine.isHex b
  | .pAddrBad b => !Machine.isHex b
  | .pRtNib b => Machine.isHex b
  | .pRtBad b => !Machine.isHex b
  | .pDataNib b => Machine.isHex b
  | .pDataBad b => !Machine.isHex b
  | .pCkNib b => Machine.isHex b
  | .pCkBad b => !Machine.isHex b
  | .pEndAny _ => true
  | .pErrAny b => !(resync && b == 0x3A)
  | .pErrResync => resync
  | .recData => true
  | .recEof => true
  | .recUnsupported t => t != 0x00 && t != 0x01
  | .rxPush _ => true
  | .rxDrop _ => true
  | .rxIdle => true
  | .coreClr => true
  | .corePumpMove => true
  | .corePumpDone => true
  | .coreParse => true
  | .coreParseNop => true
  | .coreArm => true
  | .txSend => true
  | .txPark => true
  | .txIdle => true
  | .stqEnq _ => true
  | .stqDeq => true
  | .aqPush _ _ => true
  | .aqPop _ => true
  | .reset => true
  | .rxEdge _ _ _ => true
  | .txEdge _ _ _ => true
  | .coreEdge _ _ _ => true
  | .parserStep _ => true
  | .hexDecode _ => true
  | .takeNibble _ => true
  | .resetPending => true
  | .startRecord => true
  | .cksumClear => true
  | .cksumAdd _ => true
  | .beginPage => true
  | .appendByte _ => true
  | .commit => true
  | .enterError _ => true
  | .diagPush _ => true
  | .aqSync _ _ => true
  | .armSync _ => true
  | .sample _ _ => true
  | .stqLen => true
  | .aqLen _ _ => true

end Sys2Proof
end

