-- ==== Sys2Proof/Decode.lean ====
section
/-! DEFINITION. Decoding and encoding. The block executes no instruction words: what it decodes are the control vectors of spec/30_encoding.md (R66, R67, R70), each of a format of its own. A vector is laid out in bytes with bit 0 the least significant bit of the first byte, and the operands that the spec passes beside the vector (a received byte, a byte to enqueue, the name of a FIFO) follow it as whole bytes (log 15). -/

namespace Sys2Proof

/-- The queue primitives of format QOP (spec/30_encoding.md R70). -/
inductive QueuePrimitive where
  | stqEnq
  | stqDeq
  | aqPush
  | aqPop
  deriving DecidableEq, Repr

/-- The formats of spec/opcode_table.json that have an encoding. -/
inductive Format where
  | pstep
  | rectype
  | rxedge
  | coreedge
  | txedge
  | qop (p : QueuePrimitive)
  | rst
  deriving DecidableEq, Repr

/-- Why a byte sequence is no instruction. -/
inductive DecodeError where
  /-- Fewer bytes than the format has. -/
  | truncated
  /-- A bit above the vector's width is set. -/
  | vectorTooWide
  /-- The COREEDGE vector `011x`, which needs `phase == 3` (spec/30_encoding.md R70). -/
  | unreachablePhase
  /-- A QOP vector whose request bit is 0. -/
  | noRequest
  /-- The RST vector 0. -/
  | noReset
  /-- An operand byte that names neither `rxq` (0) nor `txq` (1). -/
  | noSuchQueue
  deriving DecidableEq, Repr

/-- The parser's operations, one for each mnemonic of format PSTEP. -/
inductive PstepOp where
  | initSkip
  | initStart
  | initBad
  | bcNib
  | bcBad
  | addrNib
  | addrBad
  | rtNib
  | rtBad
  | dataNib
  | dataBad
  | ckNib
  | ckBad
  | endAny
  | errAny
  | errResync
  deriving DecidableEq, Repr

/-- The selection of the table of spec/30_encoding.md R66: by parser state and symbol class, and in Error by
`RESYNC_ON_COLON`. -/
def selectPstep (resync : Bool) (st : PState) (b : Byte) : PstepOp :=
  match st with
  | .init =>
    match Machine.symbolClass b with
    | .cr => .initSkip
    | .lf => .initSkip
    | .colon => .initStart
    | .digit => .initBad
    | .upper => .initBad
    | .lower => .initBad
    | .other => .initBad
  | .byteCount => if Machine.isHex b then .bcNib else .bcBad
  | .address => if Machine.isHex b then .addrNib else .addrBad
  | .recordType => if Machine.isHex b then .rtNib else .rtBad
  | .data => if Machine.isHex b then .dataNib else .dataBad
  | .checksum => if Machine.isHex b then .ckNib else .ckBad
  | .endState => .endAny
  | .error => if resync && b == 0x3A then .errResync else .errAny

/-- The instruction of a parser operation on the byte `b`. -/
def PstepOp.toInstr (b : Byte) : PstepOp → Instr
  | .initSkip => .pInitSkip b
  | .initStart => .pInitStart
  | .initBad => .pInitBad b
  | .bcNib => .pBcNib b
  | .bcBad => .pBcBad b
  | .addrNib => .pAddrNib b
  | .addrBad => .pAddrBad b
  | .rtNib => .pRtNib b
  | .rtBad => .pRtBad b
  | .dataNib => .pDataNib b
  | .dataBad => .pDataBad b
  | .ckNib => .pCkNib b
  | .ckBad => .pCkBad b
  | .endAny => .pEndAny b
  | .errAny => .pErrAny b
  | .errResync => .pErrResync

/-- The record kind of a type byte (spec/30_encoding.md R67). -/
def selectRecord (t : Byte) : Instr :=
  if t = 0x00 then .recData
  else if t = 0x01 then .recEof
  else .recUnsupported t

/-- The operation of the RXEDGE vector with the received byte `d` (spec/30_encoding.md R70). -/
def decodeRxVector (v : Nat) (d : Byte) : Except DecodeError Instr :=
  match v with
  | 0 => .ok .rxIdle
  | 1 => .ok .rxIdle
  | 2 => .ok (.rxPush d)
  | 3 => .ok (.rxDrop d)
  | _ => .error .vectorTooWide

/-- The operation of the COREEDGE vector (spec/30_encoding.md R70). -/
def decodeCoreVector (v : Nat) : Except DecodeError Instr :=
  match v with
  | 0 => .ok .corePumpDone
  | 1 => .ok .corePumpMove
  | 2 => .ok .coreParseNop
  | 3 => .ok .coreParse
  | 4 => .ok .coreArm
  | 5 => .ok .coreArm
  | 6 => .error .unreachablePhase
  | 7 => .error .unreachablePhase
  | n + 8 => if n < 8 then .ok .coreClr else .error .vectorTooWide

/-- The operation of the TXEDGE vector (spec/30_encoding.md R70). -/
def decodeTxVector (v : Nat) : Except DecodeError Instr :=
  match v with
  | 6 => .ok .txSend
  | 7 => .ok .txPark
  | n => if n < 6 then .ok .txIdle else .error .vectorTooWide

/-- The QOP vector `{request, blocked}`: `10` and `11` both request the primitive, which finds out for itself
whether it is blocked (spec/30_encoding.md R70). -/
def decodeQopVector (v : Nat) (i : Instr) : Except DecodeError Instr :=
  match v with
  | 0 => .error .noRequest
  | 1 => .error .noRequest
  | 2 => .ok i
  | 3 => .ok i
  | _ => .error .vectorTooWide

/-- The FIFO named by an operand byte (log 15). -/
def decodeQueue (q : Byte) : Except DecodeError QueueId :=
  if q = 0 then .ok .rxq else if q = 1 then .ok .txq else .error .noSuchQueue

/-- The operand byte of a FIFO (log 15). -/
def encodeQueue : QueueId → Byte
  | .rxq => 0
  | .txq => 1

/-- The queue primitive of a QOP frame: the vector's byte, then its operands. -/
def decodeQop (p : QueuePrimitive) (bs : List Byte) : Except DecodeError (Instr × List Byte) :=
  match p, bs with
  | .stqEnq, v :: b :: rest => (decodeQopVector v.toNat (.stqEnq b)).map (·, rest)
  | .stqDeq, v :: rest => (decodeQopVector v.toNat .stqDeq).map (·, rest)
  | .aqPush, v :: q :: b :: rest =>
    match decodeQueue q with
    | .ok k => (decodeQopVector v.toNat (.aqPush k b)).map (·, rest)
    | .error e => .error e
  | .aqPop, v :: q :: rest =>
    match decodeQueue q with
    | .ok k => (decodeQopVector v.toNat (.aqPop k)).map (·, rest)
    | .error e => .error e
  | _, _ => .error .truncated

/-- The decoder: the instruction of a frame of format `f`, and the bytes after it. Total on any bytes; what is
no instruction is rejected by name. `resync` is the parameter `RESYNC_ON_COLON` (spec/30_encoding.md R71). -/
def decode (resync : Bool) (f : Format) (bs : List Byte) : Except DecodeError (Instr × List Byte) :=
  match f, bs with
  | .pstep, b :: st :: rest =>
    if st.toNat < 8 then
      .ok ((selectPstep resync (Machine.pstateOfCode st.toNat) b).toInstr b, rest)
    else .error .vectorTooWide
  | .rectype, t :: rest => .ok (selectRecord t, rest)
  | .rxedge, v :: d :: rest => (decodeRxVector v.toNat d).map (·, rest)
  | .coreedge, v :: rest => (decodeCoreVector v.toNat).map (·, rest)
  | .txedge, v :: rest => (decodeTxVector v.toNat).map (·, rest)
  | .qop p, bs => decodeQop p bs
  | .rst, v :: rest =>
    if v = 1 then .ok (.reset, rest) else if v = 0 then .error .noReset else .error .vectorTooWide
  | _, _ => .error .truncated

/-- How many bytes a frame of a format has: its vector in whole bytes, and its operands (log 15). -/
def Format.length : Format → Nat
  | .pstep => 2
  | .rectype => 1
  | .rxedge => 2
  | .coreedge => 1
  | .txedge => 1
  | .qop .stqEnq => 2
  | .qop .stqDeq => 1
  | .qop .aqPush => 3
  | .qop .aqPop => 2
  | .rst => 1

/-- The PSTEP frame of state `st` and byte `b`: the selector `{pstate, b}` of spec/30_encoding.md R66, low byte
first. -/
def pstepFrame (st : PState) (b : Byte) : List Byte := [b, (Machine.pstateCode st).setWidth 8]

/-- The encoder: the format and the bytes of an instruction, `none` for the helpers and step functions, which
have no encoding (spec/30_encoding.md R71). Don't-care bits are written 0. -/
def encode : Instr → Option (Format × List Byte)
  | .pInitSkip b => some (.pstep, pstepFrame .init b)
  | .pInitStart => some (.pstep, pstepFrame .init 0x3A)
  | .pInitBad b => some (.pstep, pstepFrame .init b)
  | .pBcNib b => some (.pstep, pstepFrame .byteCount b)
  | .pBcBad b => some (.pstep, pstepFrame .byteCount b)
  | .pAddrNib b => some (.pstep, pstepFrame .address b)
  | .pAddrBad b => some (.pstep, pstepFrame .address b)
  | .pRtNib b => some (.pstep, pstepFrame .recordType b)
  | .pRtBad b => some (.pstep, pstepFrame .recordType b)
  | .pDataNib b => some (.pstep, pstepFrame .data b)
  | .pDataBad b => some (.pstep, pstepFrame .data b)
  | .pCkNib b => some (.pstep, pstepFrame .checksum b)
  | .pCkBad b => some (.pstep, pstepFrame .checksum b)
  | .pEndAny b => some (.pstep, pstepFrame .endState b)
  | .pErrAny b => some (.pstep, pstepFrame .error b)
  | .pErrResync => some (.pstep, pstepFrame .error 0x3A)
  | .recData => some (.rectype, [0x00])
  | .recEof => some (.rectype, [0x01])
  | .recUnsupported t => some (.rectype, [t])
  | .rxPush d => some (.rxedge, [0x2, d])
  | .rxDrop d => some (.rxedge, [0x3, d])
  | .rxIdle => some (.rxedge, [0x0, 0x00])
  | .coreClr => some (.coreedge, [0x8])
  | .corePumpMove => some (.coreedge, [0x1])
  | .corePumpDone => some (.coreedge, [0x0])
  | .coreParse => some (.coreedge, [0x3])
  | .coreParseNop => some (.coreedge, [0x2])
  | .coreArm => some (.coreedge, [0x4])
  | .txSend => some (.txedge, [0x6])
  | .txPark => some (.txedge, [0x7])
  | .txIdle => some (.txedge, [0x0])
  | .stqEnq b => some (.qop .stqEnq, [0x2, b])
  | .stqDeq => some (.qop .stqDeq, [0x2])
  | .aqPush q b => some (.qop .aqPush, [0x2, encodeQueue q, b])
  | .aqPop q => some (.qop .aqPop, [0x2, encodeQueue q])
  | .reset => some (.rst, [0x1])
  | .rxEdge _ _ _ => none
  | .txEdge _ _ _ => none
  | .coreEdge _ _ _ => none
  | .parserStep _ => none
  | .hexDecode _ => none
  | .takeNibble _ => none
  | .resetPending => none
  | .startRecord => none
  | .cksumClear => none
  | .cksumAdd _ => none
  | .beginPage => none
  | .appendByte _ => none
  | .commit => none
  | .enterError _ => none
  | .diagPush _ => none
  | .aqSync _ _ => none
  | .armSync _ => none
  | .sample _ _ => none
  | .stqLen => none
  | .aqLen _ _ => none

/-- The format of a word of the opcode table. A table word does not name its format, and words of at most a byte
belong to several formats; this is the one the model reads them in (log 15). A word given with the exact width of
its vector is read in the format of that width. -/
def tableFormat (nbits w : Nat) : Format :=
  if 8 < nbits then .pstep
  else if nbits = 1 then .rst
  else if nbits = 2 then .rxedge
  else if nbits = 3 then .txedge
  else if nbits = 4 then .coreedge
  else if w < 6 then .coreedge
  else if w < 8 then .txedge
  else if w < 16 then .coreedge
  else .rectype

/-- The bytes of a table word: bit 0 is the least significant bit of the first byte; operand bytes are 0. -/
def tableBytes (w : Nat) : List Byte :=
  [BitVec.ofNat 8 w, BitVec.ofNat 8 (w / 256), BitVec.ofNat 8 (w / 65536), BitVec.ofNat 8 (w / 16777216)]

/-- The instruction of a table word under the parameter `RESYNC_ON_COLON`. -/
def decodeTable (resync : Bool) (nbits w : Nat) : Option Instr :=
  match decode resync (tableFormat nbits w) (tableBytes w) with
  | .ok (i, _) => some i
  | .error _ => none

/-- The instruction the decoder reads from a word of the opcode table, in the default configuration. -/
def decodeTableWord (nbits w : Nat) : Option Instr :=
  decodeTable Config.default.resyncOnColon nbits w

/-- A row of format PSTEP in spec/opcode_table.json: "a vector v selects the row when v & mask == match"
(spec/30_encoding.md R71). -/
structure PstepRow where
  mask : Nat
  pattern : Nat
  op : PstepOp
  deriving DecidableEq, Repr

/-- Whether the selector `v = (pstate, b)` selects the row (spec/30_encoding.md R71). -/
def PstepRow.selects (r : PstepRow) (v : Nat) : Bool := v &&& r.mask == r.pattern

/-- The PSTEP rows of state Init (spec/opcode_table.json): mask, match and operation. -/
def pstepRowsInit : List PstepRow :=
  [ ⟨0x7FF, 0x00A, .initSkip⟩
  , ⟨0x7FF, 0x00D, .initSkip⟩
  , ⟨0x7FF, 0x03A, .initStart⟩
  , ⟨0x7FF, 0x00C, .initBad⟩
  , ⟨0x7FE, 0x00E, .initBad⟩
  , ⟨0x7FF, 0x01A, .initBad⟩
  , ⟨0x7FC, 0x01C, .initBad⟩
  , ⟨0x7FF, 0x02A, .initBad⟩
  , ⟨0x7EC, 0x02C, .initBad⟩
  , ⟨0x7C8, 0x000, .initBad⟩
  , ⟨0x7CE, 0x008, .initBad⟩
  , ⟨0x7CF, 0x00B, .initBad⟩
  , ⟨0x7C0, 0x040, .initBad⟩
  , ⟨0x780, 0x080, .initBad⟩ ]

/-- The PSTEP rows of state ByteCount (spec/opcode_table.json): mask, match and operation. -/
def pstepRowsByteCount : List PstepRow :=
  [ ⟨0x7F8, 0x130, .bcNib⟩
  , ⟨0x7FE, 0x138, .bcNib⟩
  , ⟨0x7DF, 0x141, .bcNib⟩
  , ⟨0x7DE, 0x142, .bcNib⟩
  , ⟨0x7DE, 0x144, .bcNib⟩
  , ⟨0x7DF, 0x146, .bcNib⟩
  , ⟨0x7E0, 0x100, .bcBad⟩
  , ⟨0x7F0, 0x120, .bcBad⟩
  , ⟨0x7FE, 0x13A, .bcBad⟩
  , ⟨0x7FC, 0x13C, .bcBad⟩
  , ⟨0x7DF, 0x140, .bcBad⟩
  , ⟨0x7DF, 0x147, .bcBad⟩
  , ⟨0x7D8, 0x148, .bcBad⟩
  , ⟨0x7D0, 0x150, .bcBad⟩
  , ⟨0x780, 0x180, .bcBad⟩ ]

/-- The PSTEP rows of state Address (spec/opcode_table.json): mask, match and operation. -/
def pstepRowsAddress : List PstepRow :=
  [ ⟨0x7F8, 0x230, .addrNib⟩
  , ⟨0x7FE, 0x238, .addrNib⟩
  , ⟨0x7DF, 0x241, .addrNib⟩
  , ⟨0x7DE, 0x242, .addrNib⟩
  , ⟨0x7DE, 0x244, .addrNib⟩
  , ⟨0x7DF, 0x246, .addrNib⟩
  , ⟨0x7E0, 0x200, .addrBad⟩
  , ⟨0x7F0, 0x220, .addrBad⟩
  , ⟨0x7FE, 0x23A, .addrBad⟩
  , ⟨0x7FC, 0x23C, .addrBad⟩
  , ⟨0x7DF, 0x240, .addrBad⟩
  , ⟨0x7DF, 0x247, .addrBad⟩
  , ⟨0x7D8, 0x248, .addrBad⟩
  , ⟨0x7D0, 0x250, .addrBad⟩
  , ⟨0x780, 0x280, .addrBad⟩ ]

/-- The PSTEP rows of state RecordType (spec/opcode_table.json): mask, match and operation. -/
def pstepRowsRecordType : List PstepRow :=
  [ ⟨0x7F8, 0x330, .rtNib⟩
  , ⟨0x7FE, 0x338, .rtNib⟩
  , ⟨0x7DF, 0x341, .rtNib⟩
  , ⟨0x7DE, 0x342, .rtNib⟩
  , ⟨0x7DE, 0x344, .rtNib⟩
  , ⟨0x7DF, 0x346, .rtNib⟩
  , ⟨0x7E0, 0x300, .rtBad⟩
  , ⟨0x7F0, 0x320, .rtBad⟩
  , ⟨0x7FE, 0x33A, .rtBad⟩
  , ⟨0x7FC, 0x33C, .rtBad⟩
  , ⟨0x7DF, 0x340, .rtBad⟩
  , ⟨0x7DF, 0x347, .rtBad⟩
  , ⟨0x7D8, 0x348, .rtBad⟩
  , ⟨0x7D0, 0x350, .rtBad⟩
  , ⟨0x780, 0x380, .rtBad⟩ ]

/-- The PSTEP rows of state Data (spec/opcode_table.json): mask, match and operation. -/
def pstepRowsData : List PstepRow :=
  [ ⟨0x7F8, 0x430, .dataNib⟩
  , ⟨0x7FE, 0x438, .dataNib⟩
  , ⟨0x7DF, 0x441, .dataNib⟩
  , ⟨0x7DE, 0x442, .dataNib⟩
  , ⟨0x7DE, 0x444, .dataNib⟩
  , ⟨0x7DF, 0x446, .dataNib⟩
  , ⟨0x7E0, 0x400, .dataBad⟩
  , ⟨0x7F0, 0x420, .dataBad⟩
  , ⟨0x7FE, 0x43A, .dataBad⟩
  , ⟨0x7FC, 0x43C, .dataBad⟩
  , ⟨0x7DF, 0x440, .dataBad⟩
  , ⟨0x7DF, 0x447, .dataBad⟩
  , ⟨0x7D8, 0x448, .dataBad⟩
  , ⟨0x7D0, 0x450, .dataBad⟩
  , ⟨0x780, 0x480, .dataBad⟩ ]

/-- The PSTEP rows of state Checksum (spec/opcode_table.json): mask, match and operation. -/
def pstepRowsChecksum : List PstepRow :=
  [ ⟨0x7F8, 0x530, .ckNib⟩
  , ⟨0x7FE, 0x538, .ckNib⟩
  , ⟨0x7DF, 0x541, .ckNib⟩
  , ⟨0x7DE, 0x542, .ckNib⟩
  , ⟨0x7DE, 0x544, .ckNib⟩
  , ⟨0x7DF, 0x546, .ckNib⟩
  , ⟨0x7E0, 0x500, .ckBad⟩
  , ⟨0x7F0, 0x520, .ckBad⟩
  , ⟨0x7FE, 0x53A, .ckBad⟩
  , ⟨0x7FC, 0x53C, .ckBad⟩
  , ⟨0x7DF, 0x540, .ckBad⟩
  , ⟨0x7DF, 0x547, .ckBad⟩
  , ⟨0x7D8, 0x548, .ckBad⟩
  , ⟨0x7D0, 0x550, .ckBad⟩
  , ⟨0x780, 0x580, .ckBad⟩ ]

/-- The PSTEP rows of state End (spec/opcode_table.json): mask, match and operation. -/
def pstepRowsEnd : List PstepRow :=
  [ ⟨0x700, 0x600, .endAny⟩ ]

/-- The PSTEP rows of state Error (spec/opcode_table.json): mask, match and operation. -/
def pstepRowsError : List PstepRow :=
  [ ⟨0x7E0, 0x700, .errAny⟩
  , ⟨0x7F0, 0x720, .errAny⟩
  , ⟨0x7F8, 0x730, .errAny⟩
  , ⟨0x7FE, 0x738, .errAny⟩
  , ⟨0x7FF, 0x73B, .errAny⟩
  , ⟨0x7FC, 0x73C, .errAny⟩
  , ⟨0x7C0, 0x740, .errAny⟩
  , ⟨0x780, 0x780, .errAny⟩ ]

/-- The rows of format PSTEP that apply under `RESYNC_ON_COLON = resync`: "rows of one format never overlap,
except the two rows at selector `7:0x3A`", of which the parameter picks one (spec/30_encoding.md R71). -/
def pstepRows (resync : Bool) : List PstepRow :=
  ⟨0x7FF, 0x73A, if resync then .errResync else .errAny⟩ ::
    (pstepRowsInit ++ pstepRowsByteCount ++ pstepRowsAddress ++ pstepRowsRecordType
      ++ pstepRowsData ++ pstepRowsChecksum ++ pstepRowsEnd ++ pstepRowsError)

end Sys2Proof
end

