-- ==== Sys2Proof/Machine/State.lean ====
section
/-! DEFINITION. The state of the block: every register, array and ghost field of spec/10_state.md, grouped as its sections group them, with the fields of the model's own marked as such; the faults and refusals; and the state right after reset (spec/70_reset_and_hazards.md R220). Plain data throughout. -/

namespace Sys2Proof.Machine

/-- What the unlisted indices of an array read as: the free power-on byte of each slot, or 0x00 once
`BeginPage` has cleared the page (log 4). -/
inductive Fill where
  | powerOn
  | zero
  deriving DecidableEq, Repr

/-- One byte array (spec/20_memory.md R40): the written cells, indices strictly rising, and what every other
index reads as. -/
structure Memory where
  fill : Fill
  cells : List Host.Cell
  deriving DecidableEq, Repr

/-- An array nothing has written (spec/70_reset_and_hazards.md R221). -/
def Memory.unwritten : Memory := ⟨.powerOn, []⟩

/-- An asynchronous FIFO (spec/10_state.md R11) with the ghost fields of its two crossing signals (R20).
Pointers are `PW = AW + 1` bits wide, kept as numbers below `2^PW` (log 7). -/
structure AsyncFifo where
  mem : Memory
  wbin : Nat
  wgray : Nat
  rq1 : Nat
  rq2 : Nat
  rbin : Nat
  rgray : Nat
  wq1 : Nat
  wq2 : Nat
  /-- ghost `wgray.prev`, `wgray.fresh` -/
  wgrayPrev : Nat
  wgrayFresh : Bool
  /-- ghost `rgray.prev`, `rgray.fresh` -/
  rgrayPrev : Nat
  rgrayFresh : Bool
  deriving DecidableEq, Repr

/-- The reset values of spec/10_state.md R11 and R20, with the array as it stands. -/
def AsyncFifo.cleared (m : Memory) : AsyncFifo where
  mem := m
  wbin := 0
  wgray := 0
  rq1 := 0
  rq2 := 0
  rbin := 0
  rgray := 0
  wq1 := 0
  wq2 := 0
  wgrayPrev := 0
  wgrayFresh := false
  rgrayPrev := 0
  rgrayFresh := false

/-- The staging queue (spec/10_state.md R13); `inp` is the spec's `in`. -/
structure StagingQueue where
  mem : Memory
  inp : Nat
  out : Nat
  cnt : Nat
  deriving DecidableEq, Repr

/-- The Transport control registers (spec/10_state.md R14) with the ghost fields of `arm_req` (R20). -/
structure Transport where
  txIe : Bool
  armReq : Bool
  armQ1 : Bool
  armQ2 : Bool
  txValid : Bool
  txData : Byte
  /-- ghost `arm_req.prev`, `arm_req.fresh` -/
  armPrev : Bool
  armFresh : Bool
  deriving DecidableEq, Repr

/-- The PendingRecord registers (spec/10_state.md R17); `nibPhase` is `nib_phase`, true for 1. -/
structure PendingRecord where
  bcRem : BitVec 2
  addrRem : BitVec 3
  rtRem : BitVec 2
  ckRem : BitVec 2
  acc : Byte
  nibPhase : Bool
  recLen : Byte
  recType : Byte
  deriving DecidableEq, Repr

/-- The "reset and ResetPending value" column of spec/10_state.md R17. -/
def PendingRecord.initial : PendingRecord where
  bcRem := 2
  addrRem := 4
  rtRem := 2
  ckRem := 2
  acc := 0x00
  nibPhase := false
  recLen := 0x00
  recType := 0x00

/-- The Page (spec/10_state.md R18, R19): `pg_addr`, `pg_len`, `pg_data`. -/
structure Page where
  addr : Addr
  len : Nat
  data : Memory
  deriving DecidableEq, Repr

/-- The events of spec/00_scope.md section 6. -/
inductive Event where
  /-- `Commit(addr, data, len)`: a snapshot of the page at the commit edge. -/
  | commit (addr : Addr) (data : List Byte) (len : Nat)
  /-- `Eof`. -/
  | eof
  /-- `TxByte(b)`. -/
  | txByte (b : Byte)
  /-- `Drop(rxq, b)` and `Drop(txq, b)`. -/
  | drop (q : QueueId) (b : Byte)
  /-- `Drop(stq, b)`. -/
  | dropStaging (b : Byte)
  deriving DecidableEq, Repr

/-- MODEL'S OWN. What a primitive or helper returned, when it is run as an instruction of its own (log 13). -/
inductive Returned where
  | nothing
  /-- the boolean of `tryEnqueue` -/
  | accepted (ok : Bool)
  /-- the optional byte of `tryDequeue` -/
  | dequeued (b : Option Byte)
  /-- `HexDecode`'s pair -/
  | decoded (valid : Bool) (v : Nibble)
  /-- `TakeNibble`'s byte, if it is done -/
  | taken (y : Option Byte)
  /-- a count -/
  | count (n : Nat)
  /-- what `Sample` returned -/
  | sampled (v : Nat)
  deriving DecidableEq, Repr

/-- The state of the block. -/
structure State where
  /-- MODEL'S OWN. The configuration record, which no step writes (log 1). -/
  cfg : Config
  /-- the receive queue, spec/10_state.md R11 -/
  rxq : AsyncFifo
  /-- the transmit queue, spec/10_state.md R11 -/
  txq : AsyncFifo
  /-- the staging queue, spec/10_state.md R13 -/
  stq : StagingQueue
  /-- Transport control, spec/10_state.md R14 -/
  tr : Transport
  /-- spec/10_state.md R15 -/
  phase : Phase
  /-- spec/10_state.md R16 -/
  pstate : PState
  /-- PendingRecord, spec/10_state.md R17 -/
  pend : PendingRecord
  /-- spec/10_state.md R18 -/
  cksum : Byte
  /-- the Page, spec/10_state.md R19 -/
  page : Page
  /-- `err_cause`, spec/10_state.md R18; `none` is code 0 -/
  errCause : Option Cause
  /-- spec/10_state.md R18 -/
  commitValid : Bool
  /-- spec/10_state.md R18 -/
  eofValid : Bool
  /-- MODEL'S OWN. The events so far, newest first (spec/00_scope.md section 6, log 14). -/
  trace : List Event
  /-- MODEL'S OWN. The result of the last helper run as an instruction (log 13). -/
  ret : Returned
  /-- MODEL'S OWN. The environment's choices already placed, oldest first (log 2). -/
  pending : List EnvStep
  /-- MODEL'S OWN. How many choices of the free environment have been used (log 2). -/
  envTick : Nat
  /-- MODEL'S OWN. How many free values of `tx_data` have been drawn (log 5). -/
  draws : Nat
  deriving DecidableEq, Repr

/-- Why the machine stops. -/
inductive Fault where
  /-- Raised by `AppendByte` when `pg_len >= PAGE_SIZE`: `pg_data` has no such index, and the document calls it a
  "design-time invariant violation" (spec/44_page_checksum.md R175). No reachable state raises it. SAFE: the
  model stops where the spec gives no behaviour (log 10). -/
  | pageIndexOutOfRange
  /-- Raised by `STQ.ENQ` and `STQ.DEQ` when a staging cursor is not below `ST_DEPTH`: `stq.mem` has no such index
  (spec/20_memory.md R40, spec/40_bytequeue.md R85). No reachable state raises it. SAFE (log 10). -/
  | stagingIndexOutOfRange
  deriving DecidableEq, Repr

/-- Why an instruction is not run. -/
inductive Refusal where
  /-- Raised by `exec` alone, for an instruction that has no meaning in the model yet. SAFE. -/
  | notModelled (mnemonic : String)
  /-- Raised by a parser or record row given a byte outside the row's symbol classes, and by `P.ERR.RESYNC` where
  `RESYNC_ON_COLON` is false: the term is no row of spec/opcode_table.json in this configuration
  (spec/30_encoding.md R66, R67, R71), and the decoder never makes it. SAFE (log 11). -/
  | noSuchRow (mnemonic : String)
  /-- Raised by `step` when the control vector of the chosen edge is no instruction. The vectors that `step` forms
  always decode, so it is never raised. SAFE. -/
  | undecodable
  deriving DecidableEq, Repr

namespace State

/-! The named updates: one for each field an operation writes. -/

def setRxq (s : State) (q : AsyncFifo) : State := { s with rxq := q }
def setTxq (s : State) (q : AsyncFifo) : State := { s with txq := q }
def setStq (s : State) (q : StagingQueue) : State := { s with stq := q }
def setTr (s : State) (t : Transport) : State := { s with tr := t }
def setPhase (s : State) (p : Phase) : State := { s with phase := p }
def setPstate (s : State) (p : PState) : State := { s with pstate := p }
def setPend (s : State) (p : PendingRecord) : State := { s with pend := p }
def setCksum (s : State) (c : Byte) : State := { s with cksum := c }
def setPage (s : State) (p : Page) : State := { s with page := p }
def setErrCause (s : State) (c : Option Cause) : State := { s with errCause := c }
def setCommitValid (s : State) (b : Bool) : State := { s with commitValid := b }
def setEofValid (s : State) (b : Bool) : State := { s with eofValid := b }
/-- The event `e` is observed. -/
def observe (s : State) (e : Event) : State := { s with trace := e :: s.trace }
def setRet (s : State) (r : Returned) : State := { s with ret := r }

/-- The machine right after reset (spec/70_reset_and_hazards.md R220), in the default configuration
(spec/00_scope.md R2). `tx_data` and the arrays hold free values (R221; logs 4, 5). -/
def reset : State where
  cfg := Config.default
  rxq := AsyncFifo.cleared Memory.unwritten
  txq := AsyncFifo.cleared Memory.unwritten
  stq := ⟨Memory.unwritten, 0, 0, 0⟩
  tr := ⟨false, false, false, false, false, Config.txDataDraw 0, false, false⟩
  phase := .pump
  pstate := .init
  pend := PendingRecord.initial
  cksum := 0x00
  page := ⟨0x0000, 0, Memory.unwritten⟩
  errCause := none
  commitValid := false
  eofValid := false
  trace := []
  ret := .nothing
  pending := []
  envTick := 0
  draws := 1

end State

end Sys2Proof.Machine
end

