-- ==== Sys2Proof/Machine/Flags.lean ====
section
/-! DEFINITION. The flags and counts the operations are selected by: `full`, `empty` and the three counts of an asynchronous FIFO (spec/40_bytequeue.md R90 to R92), and the two flags of the staging queue (R82, R83). All are computed from pre-edge registers. -/

namespace Sys2Proof.Machine

/-- The mask of the two most significant bits of a pointer, `0b11 << (AW - 1)` (spec/40_bytequeue.md R90). -/
def fullMask (aw : Nat) : Nat := 3 <<< (aw - 1)

/-- `full(Q)`, in the write domain (spec/40_bytequeue.md R90). -/
def AsyncFifo.full (aw : Nat) (q : AsyncFifo) : Bool := q.wgray == q.rq2 ^^^ fullMask aw

/-- `empty(Q)`, in the read domain (spec/40_bytequeue.md R91). -/
def AsyncFifo.empty (q : AsyncFifo) : Bool := q.rgray == q.wq2

/-- `(a - b) mod 2^pw` on pointers. -/
def pointerDiff (pw a b : Nat) : Nat := (a + (2 ^ pw - b % 2 ^ pw)) % 2 ^ pw

/-- `wr_count(Q)` (spec/40_bytequeue.md R92). -/
def AsyncFifo.wrCount (aw : Nat) (q : AsyncFifo) : Nat :=
  pointerDiff (aw + 1) q.wbin (gray2bin (aw + 1) q.rq2)

/-- `rd_count(Q)` (spec/40_bytequeue.md R92). -/
def AsyncFifo.rdCount (aw : Nat) (q : AsyncFifo) : Nat :=
  pointerDiff (aw + 1) (gray2bin (aw + 1) q.wq2) q.rbin

/-- `true_count(Q)`, which no single domain can read (spec/40_bytequeue.md R92). -/
def AsyncFifo.trueCount (aw : Nat) (q : AsyncFifo) : Nat := pointerDiff (aw + 1) q.wbin q.rbin

/-- The blocking flag of an enqueue on the staging queue (spec/40_bytequeue.md R82). -/
def State.stqFull (s : State) : Bool := s.stq.cnt == s.cfg.stDepth

/-- The blocking flag of a dequeue from the staging queue (spec/40_bytequeue.md R83). -/
def State.stqEmpty (s : State) : Bool := s.stq.cnt == 0

/-- The address width of a FIFO (spec/00_scope.md R2). -/
def State.aw (s : State) : QueueId → Nat
  | .rxq => s.cfg.rxAw
  | .txq => s.cfg.txAw

/-- A FIFO by name. -/
def State.fifo (s : State) : QueueId → AsyncFifo
  | .rxq => s.rxq
  | .txq => s.txq

/-- The FIFO `q` replaced. -/
def State.setFifo (s : State) (q : QueueId) (f : AsyncFifo) : State :=
  match q with
  | .rxq => s.setRxq f
  | .txq => s.setTxq f

end Sys2Proof.Machine
end

