-- ==== Sys2Proof/Machine/Ops.lean ====
section
/-! DEFINITION. The named operations over memory and registers that the meanings share: the byte arrays, the queue primitives, the synchronisers, the parser's helpers, the page and checksum helpers, and the entry into Error (spec/60_exceptions.md R200) with the two ways back that are operations of the block (R204). -/

namespace Sys2Proof.Machine

/-- A result of an operation that may meet an array index which does not exist. -/
abbrev Run (α : Type) := Except Fault α

/-- The outcome of an instruction. -/
abbrev Out := Host.Outcome State Fault Refusal

/-- The outcome of an operation run as an instruction. -/
def toOut : Run State → Out
  | .ok s => .next s
  | .error f => .fault f

/-- The outcome after a further change of the state. -/
def mapNext (f : State → State) : Out → Out
  | .next s => .next (f s)
  | .fault e => .fault e
  | .refused r => .refused r

/-! ### Byte arrays (spec/20_memory.md R40, R47) -/

/-- The byte listed for index `a`. -/
def lookupCell : List Host.Cell → Nat → Option Byte
  | [], _ => none
  | (k, v) :: rest, a => if k = a then some v else lookupCell rest a

/-- The cells with `b` at index `a`, in rising order. -/
def insertCell (a : Nat) (b : Byte) : List Host.Cell → List Host.Cell
  | [] => [(a, b)]
  | (k, v) :: rest =>
    if a < k then (a, b) :: (k, v) :: rest
    else if a = k then (a, b) :: rest
    else (k, v) :: insertCell a b rest

/-- The cells without index `a`. -/
def eraseCell (a : Nat) : List Host.Cell → List Host.Cell
  | [] => []
  | (k, v) :: rest => if k = a then rest else (k, v) :: eraseCell a rest

/-- What an unlisted index reads as (log 4). -/
def fillByte (id : ArrayId) (f : Fill) (a : Nat) : Byte :=
  match f with
  | .powerOn => Config.powerOnByte id a
  | .zero => 0x00

/-- `MemRead(A, i, 1)` (spec/00_scope.md section 6). -/
def Memory.read (id : ArrayId) (m : Memory) (a : Nat) : Byte :=
  match lookupCell m.cells a with
  | some b => b
  | none => fillByte id m.fill a

/-- `MemWrite(A, i, 1, v)` (spec/00_scope.md section 6). A byte that a cleared array would read anyway is not
listed, so that equal arrays are equal lists. -/
def Memory.write (m : Memory) (a : Nat) (b : Byte) : Memory :=
  if m.fill = .zero ∧ b = 0x00 then { m with cells := eraseCell a m.cells }
  else { m with cells := insertCell a b m.cells }

/-- Every byte cleared to 0x00 (spec/44_page_checksum.md R174). -/
def Memory.cleared : Memory := ⟨.zero, []⟩

/-- Whether indices rise strictly from `lo` and stay below `size`. -/
def risingBelow (size : Nat) : Nat → List Host.Cell → Bool
  | _, [] => true
  | lo, (k, _) :: rest => decide (lo ≤ k) && decide (k < size) && risingBelow size (k + 1) rest

/-- The canonical form of an array of `size` bytes: indices strictly rising and in range, and no cell equal to
what its index would read as unlisted, where that is a known byte (log 4). -/
def Memory.wf (size : Nat) (m : Memory) : Bool :=
  risingBelow size 0 m.cells && (m.fill == .powerOn || m.cells.all (fun c => c.2 != 0x00))

/-- The array of a FIFO. -/
def fifoArray : QueueId → ArrayId
  | .rxq => .rxqMem
  | .txq => .txqMem

/-! ### Sampling and synchronisers (spec/40_bytequeue.md R95, R96) -/

/-- `Sample(X)`'s value: the current one, unless the signal has just changed and the change is missed
(spec/40_bytequeue.md R96; the choice `late` is the environment's, log 3). -/
def sampled {α : Type} (cur prev : α) (fresh late : Bool) : α := if fresh && late then prev else cur

/-- `AQ.SYNC` at an edge of the write domain (spec/40_bytequeue.md R95). -/
def AsyncFifo.syncWrite (late : Bool) (q : AsyncFifo) : AsyncFifo :=
  { q with rq2 := q.rq1, rq1 := sampled q.rgray q.rgrayPrev q.rgrayFresh late, rgrayFresh := false }

/-- `AQ.SYNC` at an edge of the read domain (spec/40_bytequeue.md R95). -/
def AsyncFifo.syncRead (late : Bool) (q : AsyncFifo) : AsyncFifo :=
  { q with wq2 := q.wq1, wq1 := sampled q.wgray q.wgrayPrev q.wgrayFresh late, wgrayFresh := false }

/-- `AQ.SYNC` at one place (spec/40_bytequeue.md R95). -/
def aqSync (side : Side) (late : Bool) (s : State) : State :=
  match side with
  | .rxqWrite => s.setRxq (s.rxq.syncWrite late)
  | .rxqRead => s.setRxq (s.rxq.syncRead late)
  | .txqWrite => s.setTxq (s.txq.syncWrite late)
  | .txqRead => s.setTxq (s.txq.syncRead late)

/-- `ARM.SYNC`, with the set of `tx_ie` that wins over a clear (spec/41_transport.md R117). -/
def armSync (late : Bool) (s : State) : State :=
  s.setTr { s.tr with
    armQ2 := s.tr.armQ1
    armQ1 := sampled s.tr.armReq s.tr.armPrev s.tr.armFresh late
    armFresh := false
    txIe := if s.tr.armQ2 then true else s.tr.txIe }

/-- The value of `Sample(X)` (spec/40_bytequeue.md R96); a 1-bit signal gives 0 or 1. -/
def sampleValue (x : Crossing) (late : Bool) (s : State) : Nat :=
  match x with
  | .rxqWgray => sampled s.rxq.wgray s.rxq.wgrayPrev s.rxq.wgrayFresh late
  | .rxqRgray => sampled s.rxq.rgray s.rxq.rgrayPrev s.rxq.rgrayFresh late
  | .txqWgray => sampled s.txq.wgray s.txq.wgrayPrev s.txq.wgrayFresh late
  | .txqRgray => sampled s.txq.rgray s.txq.rgrayPrev s.txq.rgrayFresh late
  | .armReq => bit (sampled s.tr.armReq s.tr.armPrev s.tr.armFresh late)

/-- `X.fresh <- 0` (spec/40_bytequeue.md R96). -/
def clearFresh (x : Crossing) (s : State) : State :=
  match x with
  | .rxqWgray => s.setRxq { s.rxq with wgrayFresh := false }
  | .rxqRgray => s.setRxq { s.rxq with rgrayFresh := false }
  | .txqWgray => s.setTxq { s.txq with wgrayFresh := false }
  | .txqRgray => s.setTxq { s.txq with rgrayFresh := false }
  | .armReq => s.setTr { s.tr with armFresh := false }

/-! ### The asynchronous FIFO (spec/40_bytequeue.md R93, R94) -/

/-- The accepted branch of `AQ.PUSH` (spec/40_bytequeue.md R93). -/
def AsyncFifo.accept (aw : Nat) (b : Byte) (q : AsyncFifo) : AsyncFifo :=
  { q with
    mem := q.mem.write (q.wbin % 2 ^ aw) b
    wbin := (q.wbin + 1) % 2 ^ (aw + 1)
    wgray := bin2gray ((q.wbin + 1) % 2 ^ (aw + 1))
    wgrayPrev := q.wgray
    wgrayFresh := true }

/-- The byte at the removal cursor (spec/40_bytequeue.md R94). -/
def AsyncFifo.front (id : ArrayId) (aw : Nat) (q : AsyncFifo) : Byte := q.mem.read id (q.rbin % 2 ^ aw)

/-- The pointer updates of the accepted branch of `AQ.POP` (spec/40_bytequeue.md R94). -/
def AsyncFifo.advance (aw : Nat) (q : AsyncFifo) : AsyncFifo :=
  { q with
    rbin := (q.rbin + 1) % 2 ^ (aw + 1)
    rgray := bin2gray ((q.rbin + 1) % 2 ^ (aw + 1))
    rgrayPrev := q.rgray
    rgrayFresh := true }

/-- `AQ.PUSH(Q, b)` (spec/40_bytequeue.md R93): whether the byte was accepted; a rejected byte is the event
`Drop(Q, b)`. -/
def aqPush (q : QueueId) (b : Byte) (s : State) : Bool × State :=
  if (s.fifo q).full (s.aw q) then (false, s.observe (.drop q b))
  else (true, s.setFifo q ((s.fifo q).accept (s.aw q) b))

/-- `AQ.POP(Q)` (spec/40_bytequeue.md R94). -/
def aqPop (q : QueueId) (s : State) : Option Byte × State :=
  if (s.fifo q).empty then (none, s)
  else (some ((s.fifo q).front (fifoArray q) (s.aw q)), s.setFifo q ((s.fifo q).advance (s.aw q)))

/-! ### The staging queue (spec/40_bytequeue.md R82, R83) -/

/-- A staging cursor one further: "explicit bounds check and reset to zero" (spec/40_bytequeue.md R82). -/
def nextCursor (depth c : Nat) : Nat := if c + 1 = depth then 0 else c + 1

/-- `STQ.ENQ(b)` (spec/40_bytequeue.md R82): whether the byte was accepted; a rejected byte is the event
`Drop(stq, b)`. -/
def stqEnq (b : Byte) (s : State) : Run (Bool × State) :=
  if s.stqFull then .ok (false, s.observe (.dropStaging b))
  else if s.stq.inp < s.cfg.stDepth then
    .ok (true, s.setStq { s.stq with
      mem := s.stq.mem.write s.stq.inp b
      inp := nextCursor s.cfg.stDepth s.stq.inp
      cnt := (s.stq.cnt + 1) % 2 ^ s.cfg.stNw })
  else .error .stagingIndexOutOfRange

/-- `STQ.DEQ()` (spec/40_bytequeue.md R83). -/
def stqDeq (s : State) : Run (Option Byte × State) :=
  if s.stqEmpty then .ok (none, s)
  else if s.stq.out < s.cfg.stDepth then
    .ok (some (s.stq.mem.read .stqMem s.stq.out), s.setStq { s.stq with
      out := nextCursor s.cfg.stDepth s.stq.out
      cnt := s.stq.cnt - 1 })
  else .error .stagingIndexOutOfRange

/-! ### Diagnostics and the entry into Error (spec/60_exceptions.md R200, R203) -/

/-- `DiagPush(b)`: a diagnostic that finds `txq` full is dropped and nothing else changes
(spec/60_exceptions.md R203). -/
def diagPush (b : Byte) (s : State) : State := (aqPush .txq b s).2

/-- `DIAG[c]` (spec/60_exceptions.md R200). -/
def diagByte (cfg : Config) : Cause → Byte
  | .framing => cfg.diagFraming
  | .checksum => cfg.diagChecksum
  | .recType => cfg.diagRectype

/-- `EnterError(c)`, the block's only exception entry (spec/60_exceptions.md R200, R201). -/
def enterError (c : Cause) (s : State) : State :=
  diagPush (diagByte s.cfg c) ((s.setPstate .error).setErrCause (some c))

/-! ### Page and checksum (spec/44_page_checksum.md) -/

/-- `CksumClear` (spec/44_page_checksum.md R171). -/
def cksumClear (s : State) : State := s.setCksum 0x00

/-- `CksumAdd(y)` (spec/44_page_checksum.md R172). -/
def cksumAdd (y : Byte) (s : State) : State := s.setCksum (s.cksum + y)

/-- `BeginPage()` (spec/44_page_checksum.md R174). -/
def beginPage (s : State) : State := s.setPage ⟨0x0000, 0, Memory.cleared⟩

/-- `AppendByte(y)` (spec/44_page_checksum.md R175). -/
def appendByte (y : Byte) (s : State) : Run State :=
  if s.page.len < s.cfg.pageSize then
    .ok (s.setPage { s.page with
      data := s.page.data.write s.page.len y
      len := (s.page.len + 1) % 2 ^ s.cfg.pgLw })
  else .error .pageIndexOutOfRange

/-- `pg_data[0 .. pg_len-1]`. -/
def Page.bytes (p : Page) : List Byte := (List.range p.len).map (p.data.read .pgData)

/-- `Commit()` (spec/44_page_checksum.md R176). -/
def commit (s : State) : State :=
  (s.setCommitValid true).observe (.commit s.page.addr s.page.bytes s.page.len)

/-! ### Parser helpers (spec/43_parser.md R133 to R135) and the ways out of Error (spec/60_exceptions.md R204) -/

/-- `TakeNibble(v)` on the PendingRecord registers: the byte, when this was its low nibble
(spec/43_parser.md R133). -/
def takeNibble (v : Nibble) (p : PendingRecord) : Option Byte × PendingRecord :=
  if p.nibPhase then
    let y : Byte := p.acc.extractLsb' 4 4 ++ v
    (some y, { p with acc := y, nibPhase := false })
  else (none, { p with acc := v ++ (0 : Nibble), nibPhase := true })

/-- `ResetPending()` (spec/43_parser.md R134). -/
def resetPending (s : State) : State := s.setPend PendingRecord.initial

/-- `StartRecord()` (spec/43_parser.md R135). -/
def startRecord (s : State) : State := (cksumClear (beginPage (resetPending s))).setErrCause none

/-- The external re-initialisation of the parser, `CORE.CLR` (spec/43_parser.md R160). -/
def clearParser (s : State) : State :=
  (((((cksumClear (resetPending s)).setPstate .init).setErrCause none).setPage
    { s.page with addr := 0x0000, len := 0 }).setCommitValid false).setEofValid false

end Sys2Proof.Machine
end

