-- ==== Sys2Proof/Machine/Parser.lean ====
section
/-! DEFINITION. The record-frame state machine: the parser's operations (spec/43_parser.md R137 to R157), the three record kinds (R145 to R147), the dispatcher `ParserStep` (R136) and the meanings of the instructions of formats PSTEP and RECTYPE. -/

namespace Sys2Proof.Machine

/-- Runs an operation whose operand lies in the row's symbol classes; any other term is no row of the table
(log 11). -/
def guarded (mnemonic : String) (ok : Bool) (r : Run State) : Out :=
  if ok then toOut r else .refused (.noSuchRow mnemonic)

/-! ### The operations -/

/-- `P.INIT.SKIP` (spec/43_parser.md R137). -/
def initSkip (s : State) : State := s.setPstate .init

/-- `P.INIT.START` (spec/43_parser.md R138). -/
def initStart (s : State) : State := (startRecord s).setPstate .byteCount

/-- `raise Framing`, the action of every `BAD` row (spec/43_parser.md R139, R141, R143, R148, R150, R155). -/
def raiseFraming (s : State) : State := enterError .framing s

/-- `P.BC.NIB` with the nibble `v` (spec/43_parser.md R140). -/
def bcNib (v : Nibble) (s : State) : State :=
  match takeNibble v s.pend with
  | (none, p) => (s.setPend { p with bcRem := s.pend.bcRem - 1 }).setPstate .byteCount
  | (some y, p) =>
    (cksumAdd y (s.setPend { p with bcRem := s.pend.bcRem - 1, recLen := y })).setPstate .address

/-- `P.ADDR.NIB` with the nibble `v` (spec/43_parser.md R142). -/
def addrNib (v : Nibble) (s : State) : State :=
  match takeNibble v s.pend with
  | (none, p) => (s.setPend { p with addrRem := s.pend.addrRem - 1 }).setPstate .address
  | (some y, p) =>
    let t := cksumAdd y (s.setPend { p with addrRem := s.pend.addrRem - 1 })
    if s.pend.addrRem = 3 then
      (t.setPage { s.page with addr := y ++ s.page.addr.extractLsb' 0 8 }).setPstate .address
    else if s.pend.addrRem = 1 then
      (t.setPage { s.page with addr := s.page.addr.extractLsb' 8 8 ++ y }).setPstate .recordType
    else t

/-- `REC.DATA` (spec/43_parser.md R145). -/
def recData (s : State) : State := s.setPstate (if s.pend.recLen = 0x00 then .checksum else .data)

/-- `REC.EOF` (spec/43_parser.md R146). -/
def recEof (s : State) : State := s.setPstate .endState

/-- `REC.UNSUPPORTED` (spec/43_parser.md R147). -/
def recUnsupported (s : State) : State := enterError .recType s

/-- The record kind of the type byte `t` (spec/30_encoding.md R67). -/
def recordKind (t : Byte) (s : State) : State :=
  if t = 0x00 then recData s else if t = 0x01 then recEof s else recUnsupported s

/-- `P.RT.NIB` with the nibble `v` (spec/43_parser.md R144). -/
def rtNib (v : Nibble) (s : State) : State :=
  match takeNibble v s.pend with
  | (none, p) => (s.setPend { p with rtRem := s.pend.rtRem - 1 }).setPstate .recordType
  | (some t, p) =>
    recordKind t (cksumAdd t (s.setPend { p with rtRem := s.pend.rtRem - 1, recType := t }))

/-- `P.DATA.NIB` with the nibble `v` (spec/43_parser.md R149). -/
def dataNib (v : Nibble) (s : State) : Run State :=
  match takeNibble v s.pend with
  | (none, p) => .ok ((s.setPend p).setPstate .data)
  | (some y, p) =>
    match appendByte y (s.setPend p) with
    | .error f => .error f
    | .ok t =>
      .ok ((cksumAdd y t).setPstate
        (if (s.page.len + 1) % 2 ^ s.cfg.pgLw = s.pend.recLen.toNat then .checksum else .data))

/-- Checksum good (spec/43_parser.md R152). -/
def checksumGood (s : State) : State := (resetPending (commit s)).setPstate .init

/-- Checksum bad (spec/43_parser.md R153). -/
def checksumBad (s : State) : State := enterError .checksum s

/-- `P.CK.NIB` with the nibble `v` (spec/43_parser.md R151). -/
def ckNib (v : Nibble) (s : State) : State :=
  match takeNibble v s.pend with
  | (none, p) => (s.setPend { p with ckRem := s.pend.ckRem - 1 }).setPstate .checksum
  | (some y, p) =>
    let t := cksumAdd y (s.setPend { p with ckRem := s.pend.ckRem - 1 })
    if t.cksum = 0x00 then checksumGood t else checksumBad t

/-- `P.END.ANY` (spec/43_parser.md R154). -/
def endAny (s : State) : State :=
  if s.pend.ckRem = 1 then
    (resetPending (((diagPush s.cfg.diagEof s).setEofValid true).observe .eof)).setPstate .init
  else (s.setPend { s.pend with ckRem := s.pend.ckRem - 1 }).setPstate .endState

/-- `P.ERR.ANY` on the byte `b` (spec/43_parser.md R156). -/
def errAny (b : Byte) (s : State) : State :=
  (if s.cfg.errEcho then diagPush b s else s).setPstate .error

/-- `P.ERR.RESYNC` (spec/43_parser.md R157). -/
def errResync (s : State) : State := (startRecord s).setPstate .byteCount

/-- `ParserStep(b)` (spec/43_parser.md R136): the one operation that `{pstate, b}` selects. -/
def parserStep (b : Byte) (s : State) : Run State :=
  match selectPstep s.cfg.resyncOnColon s.pstate b with
  | .initSkip => .ok (initSkip s)
  | .initStart => .ok (initStart s)
  | .initBad => .ok (raiseFraming s)
  | .bcNib => .ok (bcNib (nibbleOf b) s)
  | .bcBad => .ok (raiseFraming s)
  | .addrNib => .ok (addrNib (nibbleOf b) s)
  | .addrBad => .ok (raiseFraming s)
  | .rtNib => .ok (rtNib (nibbleOf b) s)
  | .rtBad => .ok (raiseFraming s)
  | .dataNib => dataNib (nibbleOf b) s
  | .dataBad => .ok (raiseFraming s)
  | .ckNib => .ok (ckNib (nibbleOf b) s)
  | .ckBad => .ok (raiseFraming s)
  | .endAny => .ok (endAny s)
  | .errAny => .ok (errAny b s)
  | .errResync => .ok (errResync s)

/-! ### The meanings -/

/-- `P.INIT.SKIP` (spec/43_parser.md R137). -/
def execPInitSkip (b : Byte) (s : State) : Out :=
  guarded "P.INIT.SKIP" (b == 0x0D || b == 0x0A) (.ok (initSkip s))

/-- `P.INIT.START` (spec/43_parser.md R138). -/
def execPInitStart (s : State) : Out := .next (initStart s)

/-- `P.INIT.BAD` (spec/43_parser.md R139). -/
def execPInitBad (b : Byte) (s : State) : Out :=
  guarded "P.INIT.BAD" (b != 0x3A && b != 0x0D && b != 0x0A) (.ok (raiseFraming s))

/-- `P.BC.NIB` (spec/43_parser.md R140). -/
def execPBcNib (b : Byte) (s : State) : Out :=
  guarded "P.BC.NIB" (hexDecode b).1 (.ok (bcNib (nibbleOf b) s))

/-- `P.BC.BAD` (spec/43_parser.md R141). -/
def execPBcBad (b : Byte) (s : State) : Out :=
  guarded "P.BC.BAD" (!(hexDecode b).1) (.ok (raiseFraming s))

/-- `P.ADDR.NIB` (spec/43_parser.md R142). -/
def execPAddrNib (b : Byte) (s : State) : Out :=
  guarded "P.ADDR.NIB" (hexDecode b).1 (.ok (addrNib (nibbleOf b) s))

/-- `P.ADDR.BAD` (spec/43_parser.md R143). -/
def execPAddrBad (b : Byte) (s : State) : Out :=
  guarded "P.ADDR.BAD" (!(hexDecode b).1) (.ok (raiseFraming s))

/-- `P.RT.NIB` (spec/43_parser.md R144). -/
def execPRtNib (b : Byte) (s : State) : Out :=
  guarded "P.RT.NIB" (hexDecode b).1 (.ok (rtNib (nibbleOf b) s))

/-- `P.RT.BAD` (spec/43_parser.md R148). -/
def execPRtBad (b : Byte) (s : State) : Out :=
  guarded "P.RT.BAD" (!(hexDecode b).1) (.ok (raiseFraming s))

/-- `P.DATA.NIB` (spec/43_parser.md R149). -/
def execPDataNib (b : Byte) (s : State) : Out :=
  guarded "P.DATA.NIB" (hexDecode b).1 (dataNib (nibbleOf b) s)

/-- `P.DATA.BAD` (spec/43_parser.md R150). -/
def execPDataBad (b : Byte) (s : State) : Out :=
  guarded "P.DATA.BAD" (!(hexDecode b).1) (.ok (raiseFraming s))

/-- `P.CK.NIB` (spec/43_parser.md R151 to R153). -/
def execPCkNib (b : Byte) (s : State) : Out :=
  guarded "P.CK.NIB" (hexDecode b).1 (.ok (ckNib (nibbleOf b) s))

/-- `P.CK.BAD` (spec/43_parser.md R155). -/
def execPCkBad (b : Byte) (s : State) : Out :=
  guarded "P.CK.BAD" (!(hexDecode b).1) (.ok (raiseFraming s))

/-- `P.END.ANY` (spec/43_parser.md R154): the byte is not decoded. -/
def execPEndAny (_b : Byte) (s : State) : Out := .next (endAny s)

/-- `P.ERR.ANY` (spec/43_parser.md R156): any byte, but for `:` when `RESYNC_ON_COLON` is true (R157). -/
def execPErrAny (b : Byte) (s : State) : Out :=
  guarded "P.ERR.ANY" (!(s.cfg.resyncOnColon && b == 0x3A)) (.ok (errAny b s))

/-- `P.ERR.RESYNC` (spec/43_parser.md R157): "applies only when `RESYNC_ON_COLON` is true". -/
def execPErrResync (s : State) : Out :=
  guarded "P.ERR.RESYNC" s.cfg.resyncOnColon (.ok (errResync s))

/-- `REC.DATA` (spec/43_parser.md R145). -/
def execRecData (s : State) : Out := .next (recData s)

/-- `REC.EOF` (spec/43_parser.md R146). -/
def execRecEof (s : State) : Out := .next (recEof s)

/-- `REC.UNSUPPORTED` (spec/43_parser.md R147). -/
def execRecUnsupported (t : Byte) (s : State) : Out :=
  guarded "REC.UNSUPPORTED" (t != 0x00 && t != 0x01) (.ok (recUnsupported s))

end Sys2Proof.Machine
end

