-- ==== Sys2Proof/Machine/Helpers.lean ====
section
/-! DEFINITION. The queue primitives (format QOP), `Reset` (format RST) and the helpers (format HELPER) run as instructions of their own: the shared operation, and for one that returns something, what it returned in the model's field `ret` (log 13). -/

namespace Sys2Proof.Machine

/-- The result `f` of an operation kept in `ret`. -/
def returning {α : Type} (f : α → Returned) (r : α × State) : State := r.2.setRet (f r.1)

/-- `STQ.ENQ(b)` (spec/40_bytequeue.md R82). -/
def execStqEnq (b : Byte) (s : State) : Out := toOut ((stqEnq b s).map (returning .accepted))

/-- `STQ.DEQ()` (spec/40_bytequeue.md R83). -/
def execStqDeq (s : State) : Out := toOut ((stqDeq s).map (returning .dequeued))

/-- `AQ.PUSH(Q, b)` (spec/40_bytequeue.md R93). -/
def execAqPush (q : QueueId) (b : Byte) (s : State) : Out := .next (returning .accepted (aqPush q b s))

/-- `AQ.POP(Q)` (spec/40_bytequeue.md R94). -/
def execAqPop (q : QueueId) (s : State) : Out := .next (returning .dequeued (aqPop q s))

/-- `Reset` (spec/70_reset_and_hazards.md R220): every register at its reset value, no array written, the
parameters and the model's own fields kept; `tx_data` is a fresh free value (R221, log 5). -/
def resetStep (s : State) : State :=
  { s with
    rxq := AsyncFifo.cleared s.rxq.mem
    txq := AsyncFifo.cleared s.txq.mem
    stq := ⟨s.stq.mem, 0, 0, 0⟩
    tr := ⟨false, false, false, false, false, Config.txDataDraw s.draws, false, false⟩
    phase := .pump
    pstate := .init
    pend := PendingRecord.initial
    cksum := 0x00
    page := ⟨0x0000, 0, s.page.data⟩
    errCause := none
    commitValid := false
    eofValid := false
    draws := s.draws + 1 }

/-- `Reset` (spec/70_reset_and_hazards.md R220). -/
def execReset (s : State) : Out := .next (resetStep s)

/-- `ParserStep(b)` (spec/43_parser.md R136). -/
def execParserStep (b : Byte) (s : State) : Out := toOut (parserStep b s)

/-- `HexDecode(b)`, which has no state (spec/43_parser.md R130). -/
def execHexDecode (b : Byte) (s : State) : Out := .next (s.setRet (.decoded (hexDecode b).1 (hexDecode b).2))

/-- `TakeNibble(v)` (spec/43_parser.md R133). -/
def execTakeNibble (v : Nibble) (s : State) : Out :=
  .next ((s.setPend (takeNibble v s.pend).2).setRet (.taken (takeNibble v s.pend).1))

/-- `ResetPending()` (spec/43_parser.md R134). -/
def execResetPending (s : State) : Out := .next (resetPending s)

/-- `StartRecord()` (spec/43_parser.md R135). -/
def execStartRecord (s : State) : Out := .next (startRecord s)

/-- `CksumClear` (spec/44_page_checksum.md R171). -/
def execCksumClear (s : State) : Out := .next (cksumClear s)

/-- `CksumAdd(y)` (spec/44_page_checksum.md R172). -/
def execCksumAdd (y : Byte) (s : State) : Out := .next (cksumAdd y s)

/-- `BeginPage()` (spec/44_page_checksum.md R174). -/
def execBeginPage (s : State) : Out := .next (beginPage s)

/-- `AppendByte(y)` (spec/44_page_checksum.md R175). -/
def execAppendByte (y : Byte) (s : State) : Out := toOut (appendByte y s)

/-- `Commit()` (spec/44_page_checksum.md R176). -/
def execCommit (s : State) : Out := .next (commit s)

/-- `EnterError(c)` (spec/60_exceptions.md R200). -/
def execEnterError (c : Cause) (s : State) : Out := .next (enterError c s)

/-- `DiagPush(b)` (spec/60_exceptions.md R203). -/
def execDiagPush (b : Byte) (s : State) : Out := .next (diagPush b s)

/-- `AQ.SYNC` (spec/40_bytequeue.md R95). -/
def execAqSync (side : Side) (late : Bool) (s : State) : Out := .next (aqSync side late s)

/-- `ARM.SYNC` (spec/41_transport.md R117). -/
def execArmSync (late : Bool) (s : State) : Out := .next (armSync late s)

/-- `Sample(X)` (spec/40_bytequeue.md R96). -/
def execSample (x : Crossing) (late : Bool) (s : State) : Out :=
  .next ((clearFresh x s).setRet (.sampled (sampleValue x late s)))

/-- `STQ.LEN()` (spec/40_bytequeue.md R84). -/
def execStqLen (s : State) : Out := .next (s.setRet (.count s.stq.cnt))

/-- The count that `AQ.LEN` gives (spec/40_bytequeue.md R92). -/
def aqCount (q : QueueId) (k : CountKind) (s : State) : Nat :=
  match k with
  | .write => (s.fifo q).wrCount (s.aw q)
  | .read => (s.fifo q).rdCount (s.aw q)
  | .truth => (s.fifo q).trueCount (s.aw q)

/-- `AQ.LEN` (spec/40_bytequeue.md R92). -/
def execAqLen (q : QueueId) (k : CountKind) (s : State) : Out := .next (s.setRet (.count (aqCount q k s)))

end Sys2Proof.Machine
end

