-- ==== Sys2Proof/Machine/Transport.lean ====
section
/-! DEFINITION. The Transport: the receive and transmit handlers as the operations of the two edges (spec/41_transport.md R110 to R115), the arm (R116), the whole edges `RxEdge` and `TxEdge` (R118, R119) and the meanings of the instructions of formats RXEDGE and TXEDGE. An operation reads only values from before the edge, and no operation writes what its edge's synchroniser update reads, so the update may follow it (log 17). -/

namespace Sys2Proof.Machine

/-- `RX.PUSH` (spec/41_transport.md R110). -/
def rxPush (d : Byte) (s : State) : State := (aqPush .rxq d s).2

/-- `RX.DROP` (spec/41_transport.md R111): the rejected branch, the event `Drop(rxq, rx_data)` and nothing else. -/
def rxDrop (d : Byte) (s : State) : State := s.observe (.drop .rxq d)

/-- `RX.IDLE` (spec/41_transport.md R112): nothing but the edge's synchroniser update. -/
def rxIdle (s : State) : State := s

/-- `TX.PARK` (spec/41_transport.md R114). -/
def txPark (s : State) : State :=
  s.setTr { s.tr with txValid := false, txIe := s.tr.armQ2 }

/-- `TX.SEND` (spec/41_transport.md R113). With no byte visible the handler's other branch is taken (log 12). -/
def txSend (s : State) : State :=
  match aqPop .txq s with
  | (some b, t) => (t.setTr { s.tr with txData := b, txValid := true, txIe := true }).observe (.txByte b)
  | (none, t) => txPark t

/-- `TX.IDLE` (spec/41_transport.md R115). -/
def txIdle (s : State) : State :=
  s.setTr { s.tr with txValid := false, txIe := if s.tr.armQ2 then true else s.tr.txIe }

/-- `CORE.ARM`'s request (spec/41_transport.md R116): `arm_req` takes the core domain's view of `txq`; the ghost
fields follow a change of value. -/
def armRequest (s : State) : State :=
  let v := s.txq.wrCount s.cfg.txAw != 0
  if v = s.tr.armReq then s
  else s.setTr { s.tr with armReq := v, armPrev := s.tr.armReq, armFresh := true }

/-- `RxEdge(rx_valid, rx_data)` (spec/41_transport.md R118). -/
def rxEdge (valid : Bool) (d : Byte) (late : Bool) (s : State) : State :=
  aqSync .rxqWrite late
    (if valid then (if s.rxq.full s.cfg.rxAw then rxDrop d s else rxPush d s) else rxIdle s)

/-- `TxEdge(tx_ready)` (spec/41_transport.md R119). -/
def txEdge (ready lateTx lateArm : Bool) (s : State) : State :=
  armSync lateArm (aqSync .txqRead lateTx
    (if ready && s.tr.txIe then (if s.txq.empty then txPark s else txSend s) else txIdle s))

/-! ### The meanings -/

/-- `RX.PUSH` (spec/41_transport.md R110). -/
def execRxPush (d : Byte) (s : State) : Out := .next (rxPush d s)

/-- `RX.DROP` (spec/41_transport.md R111). -/
def execRxDrop (d : Byte) (s : State) : Out := .next (rxDrop d s)

/-- `RX.IDLE` (spec/41_transport.md R112). -/
def execRxIdle (s : State) : Out := .next (rxIdle s)

/-- `TX.SEND` (spec/41_transport.md R113). -/
def execTxSend (s : State) : Out := .next (txSend s)

/-- `TX.PARK` (spec/41_transport.md R114). -/
def execTxPark (s : State) : Out := .next (txPark s)

/-- `TX.IDLE` (spec/41_transport.md R115). -/
def execTxIdle (s : State) : Out := .next (txIdle s)

/-- `RxEdge` (spec/41_transport.md R118). -/
def execRxEdge (valid : Bool) (data : Byte) (late : Bool) (s : State) : Out :=
  .next (rxEdge valid data late s)

/-- `TxEdge` (spec/41_transport.md R119). -/
def execTxEdge (ready lateTx lateArm : Bool) (s : State) : Out :=
  .next (txEdge ready lateTx lateArm s)

end Sys2Proof.Machine
end

