-- ==== Sys2Proof/Machine/Orchestrator.lean ====
section
/-! DEFINITION. The Relay and the Orchestrator: the operations of the core edge (spec/42_relay.md R125, spec/45_orchestrator.md R187 to R189, spec/41_transport.md R116, spec/43_parser.md R160), the whole edge `CoreEdge` (R186) with its pulse clearing (R185), and the meanings of the instructions of format COREEDGE. -/

namespace Sys2Proof.Machine

/-- `CORE.PUMP_DONE` (spec/45_orchestrator.md R187). -/
def pumpDone (s : State) : State := s.setPhase .parse

/-- `CORE.PUMP_MOVE` (spec/42_relay.md R125): the byte leaves `rxq` whether or not `stq` takes it. With no byte
visible the pump ends (log 12). -/
def pumpMove (s : State) : Run State :=
  match aqPop .rxq s with
  | (none, t) => .ok (pumpDone t)
  | (some b, t) =>
    match stqEnq b t with
    | .error f => .error f
    | .ok (_, u) => .ok (u.setPhase .pump)

/-- `CORE.PARSE_NOP` (spec/45_orchestrator.md R189). -/
def parseNop (s : State) : State := s.setPhase .arm

/-- `CORE.PARSE` (spec/45_orchestrator.md R188). With nothing staged it is a no-op pass (log 12). -/
def coreParse (s : State) : Run State :=
  match stqDeq s with
  | .error f => .error f
  | .ok (none, t) => .ok (parseNop t)
  | .ok (some b, t) =>
    match parserStep b t with
    | .error f => .error f
    | .ok u => .ok (u.setPhase .arm)

/-- `CORE.ARM` (spec/41_transport.md R116). -/
def coreArm (s : State) : State := (armRequest s).setPhase .pump

/-- The pulse clearing of spec/45_orchestrator.md R185; an operation that writes 1 comes after it and wins. -/
def clearPulses (s : State) : State := (s.setCommitValid false).setEofValid false

/-- `AQ.SYNC` at a core edge: the read side of `rxq` and the write side of `txq` (spec/40_bytequeue.md R95). -/
def coreSync (lateRx lateTx : Bool) (s : State) : State :=
  aqSync .txqWrite lateTx (aqSync .rxqRead lateRx s)

/-- The operation that `{parser_clr, phase, c}` selects at a core edge (spec/30_encoding.md R70). -/
def coreOperation (clr : Bool) (s : State) : Run State :=
  if clr then .ok (clearParser s)
  else
    match s.phase with
    | .pump => if s.rxq.empty then .ok (pumpDone s) else pumpMove s
    | .parse => if s.stqEmpty then .ok (parseNop s) else coreParse s
    | .arm => .ok (coreArm s)

/-- `CoreEdge(parser_clr)` (spec/45_orchestrator.md R186). -/
def coreEdge (clr lateRx lateTx : Bool) (s : State) : Run State :=
  match coreOperation clr (clearPulses s) with
  | .error f => .error f
  | .ok t => .ok (coreSync lateRx lateTx t)

/-! ### The meanings -/

/-- `CORE.CLR` (spec/43_parser.md R160). -/
def execCoreClr (s : State) : Out := .next (clearParser s)

/-- `CORE.PUMP_MOVE` (spec/42_relay.md R125). -/
def execCorePumpMove (s : State) : Out := toOut (pumpMove s)

/-- `CORE.PUMP_DONE` (spec/45_orchestrator.md R187). -/
def execCorePumpDone (s : State) : Out := .next (pumpDone s)

/-- `CORE.PARSE` (spec/45_orchestrator.md R188). -/
def execCoreParse (s : State) : Out := toOut (coreParse s)

/-- `CORE.PARSE_NOP` (spec/45_orchestrator.md R189). -/
def execCoreParseNop (s : State) : Out := .next (parseNop s)

/-- `CORE.ARM` (spec/41_transport.md R116). -/
def execCoreArm (s : State) : Out := .next (coreArm s)

/-- `CoreEdge` (spec/45_orchestrator.md R186). -/
def execCoreEdge (clr lateRx lateTx : Bool) (s : State) : Out := toOut (coreEdge clr lateRx lateTx s)

end Sys2Proof.Machine
end

