-- ==== Sys2Proof/Machine/Dispatch.lean ====
section
/-! DEFINITION. `exec`: one arm for each instruction, each a direct call of its meaning. -/

namespace Sys2Proof.Machine

def exec (i : Instr) (s : State) : Host.Outcome State Fault Refusal :=
  match i with
  | .pInitSkip b => Sys2Proof.Machine.execPInitSkip b s
  | .pInitStart => Sys2Proof.Machine.execPInitStart s
  | .pInitBad b => Sys2Proof.Machine.execPInitBad b s
  | .pBcNib b => Sys2Proof.Machine.execPBcNib b s
  | .pBcBad b => Sys2Proof.Machine.execPBcBad b s
  | .pAddrNib b => Sys2Proof.Machine.execPAddrNib b s
  | .pAddrBad b => Sys2Proof.Machine.execPAddrBad b s
  | .pRtNib b => Sys2Proof.Machine.execPRtNib b s
  | .pRtBad b => Sys2Proof.Machine.execPRtBad b s
  | .pDataNib b => Sys2Proof.Machine.execPDataNib b s
  | .pDataBad b => Sys2Proof.Machine.execPDataBad b s
  | .pCkNib b => Sys2Proof.Machine.execPCkNib b s
  | .pCkBad b => Sys2Proof.Machine.execPCkBad b s
  | .pEndAny b => Sys2Proof.Machine.execPEndAny b s
  | .pErrAny b => Sys2Proof.Machine.execPErrAny b s
  | .pErrResync => Sys2Proof.Machine.execPErrResync s
  | .recData => Sys2Proof.Machine.execRecData s
  | .recEof => Sys2Proof.Machine.execRecEof s
  | .recUnsupported t => Sys2Proof.Machine.execRecUnsupported t s
  | .rxPush d => Sys2Proof.Machine.execRxPush d s
  | .rxDrop d => Sys2Proof.Machine.execRxDrop d s
  | .rxIdle => Sys2Proof.Machine.execRxIdle s
  | .coreClr => Sys2Proof.Machine.execCoreClr s
  | .corePumpMove => Sys2Proof.Machine.execCorePumpMove s
  | .corePumpDone => Sys2Proof.Machine.execCorePumpDone s
  | .coreParse => Sys2Proof.Machine.execCoreParse s
  | .coreParseNop => Sys2Proof.Machine.execCoreParseNop s
  | .coreArm => Sys2Proof.Machine.execCoreArm s
  | .txSend => Sys2Proof.Machine.execTxSend s
  | .txPark => Sys2Proof.Machine.execTxPark s
  | .txIdle => Sys2Proof.Machine.execTxIdle s
  | .stqEnq b => Sys2Proof.Machine.execStqEnq b s
  | .stqDeq => Sys2Proof.Machine.execStqDeq s
  | .aqPush q b => Sys2Proof.Machine.execAqPush q b s
  | .aqPop q => Sys2Proof.Machine.execAqPop q s
  | .reset => Sys2Proof.Machine.execReset s
  | .rxEdge valid data late => Sys2Proof.Machine.execRxEdge valid data late s
  | .txEdge ready lateTx lateArm => Sys2Proof.Machine.execTxEdge ready lateTx lateArm s
  | .coreEdge clr lateRx lateTx => Sys2Proof.Machine.execCoreEdge clr lateRx lateTx s
  | .parserStep b => Sys2Proof.Machine.execParserStep b s
  | .hexDecode b => Sys2Proof.Machine.execHexDecode b s
  | .takeNibble v => Sys2Proof.Machine.execTakeNibble v s
  | .resetPending => Sys2Proof.Machine.execResetPending s
  | .startRecord => Sys2Proof.Machine.execStartRecord s
  | .cksumClear => Sys2Proof.Machine.execCksumClear s
  | .cksumAdd y => Sys2Proof.Machine.execCksumAdd y s
  | .beginPage => Sys2Proof.Machine.execBeginPage s
  | .appendByte y => Sys2Proof.Machine.execAppendByte y s
  | .commit => Sys2Proof.Machine.execCommit s
  | .enterError c => Sys2Proof.Machine.execEnterError c s
  | .diagPush b => Sys2Proof.Machine.execDiagPush b s
  | .aqSync side late => Sys2Proof.Machine.execAqSync side late s
  | .armSync late => Sys2Proof.Machine.execArmSync late s
  | .sample x late => Sys2Proof.Machine.execSample x late s
  | .stqLen => Sys2Proof.Machine.execStqLen s
  | .aqLen q k => Sys2Proof.Machine.execAqLen q k s

end Sys2Proof.Machine
end

