-- ==== Sys2Proof/Machine/Fetch.lean ====
section
/-! DEFINITION. How a step comes by its instruction: the environment's next choice (spec/00_scope.md R3), the control vector of the chosen edge (spec/30_encoding.md R70), and what the edge does beside the selected operation (spec/41_transport.md R118, R119, spec/45_orchestrator.md R186). Then what it takes to make the next step run a given instruction. -/

namespace Sys2Proof.Machine

/-- The environment's next choice: the oldest one placed in `pending`, else the free environment's
(spec/00_scope.md R3; log 2). -/
def takeEnv (s : State) : EnvStep × State :=
  match s.pending with
  | e :: rest => (e, { s with pending := rest })
  | [] => (Config.environment s.envTick, { s with envTick := s.envTick + 1 })

/-- The RXEDGE vector `{rx_valid, full(rxq)}` (spec/30_encoding.md R70). -/
def rxVector (valid : Bool) (s : State) : Nat := 2 * bit valid + bit (s.rxq.full s.cfg.rxAw)

/-- The bit `c` of the COREEDGE vector (spec/30_encoding.md R70). -/
def coreCondition (s : State) : Bool :=
  match s.phase with
  | .pump => !s.rxq.empty
  | .parse => !s.stqEmpty
  | .arm => false

/-- The COREEDGE vector `{parser_clr, phase[1], phase[0], c}` (spec/30_encoding.md R70). -/
def coreVector (clr : Bool) (s : State) : Nat :=
  8 * bit clr + 2 * (phaseCode s.phase).toNat + bit (coreCondition s)

/-- The TXEDGE vector `{tx_ready, tx_ie, empty(txq)}` (spec/30_encoding.md R70). -/
def txVector (ready : Bool) (s : State) : Nat := 4 * bit ready + 2 * bit s.tr.txIe + bit s.txq.empty

/-- The format and bytes of the instruction that the choice `e` selects in `s`. -/
def fetchFrame (e : EnvStep) (s : State) : Format × List Byte :=
  match e with
  | .rx valid d _ => (.rxedge, [BitVec.ofNat 8 (rxVector valid s), d])
  | .core clr _ _ => (.coreedge, [BitVec.ofNat 8 (coreVector clr s)])
  | .tx ready _ _ => (.txedge, [BitVec.ofNat 8 (txVector ready s)])
  | .rst => (.rst, [0x1])

/-- The instruction that the choice `e` selects in `s`. -/
def fetch (e : EnvStep) (s : State) : Except DecodeError (Instr × List Byte) :=
  decode s.cfg.resyncOnColon (fetchFrame e s).1 (fetchFrame e s).2

/-- What an edge does before its operation: a core edge clears the two pulses, which the operation may set again
(spec/45_orchestrator.md R185). -/
def beginEdge (e : EnvStep) (s : State) : State :=
  match e with
  | .rx _ _ _ => s
  | .core _ _ _ => clearPulses s
  | .tx _ _ _ => s
  | .rst => s

/-- What an edge does beside its operation: the synchroniser updates (spec/40_bytequeue.md R95,
spec/41_transport.md R117). They read no register that the operation writes (log 17). -/
def endEdge (e : EnvStep) (s : State) : State :=
  match e with
  | .rx _ _ late => aqSync .rxqWrite late s
  | .core _ lateRx lateTx => coreSync lateRx lateTx s
  | .tx _ lateTx lateArm => armSync lateArm (aqSync .txqRead lateTx s)
  | .rst => s

/-- The instruction of HELPER rows that is the whole step of the choice `e`
(spec/41_transport.md R118, R119, spec/45_orchestrator.md R186, spec/70_reset_and_hazards.md R220). -/
def edgeInstr : EnvStep → Instr
  | .rx valid d late => .rxEdge valid d late
  | .core clr lateRx lateTx => .coreEdge clr lateRx lateTx
  | .tx ready lateTx lateArm => .txEdge ready lateTx lateArm
  | .rst => .reset

/-! ### Making the next step run a given instruction (log 16) -/

/-- The environment's next choice is `e`. -/
def placeEnv (e : EnvStep) (s : State) : State := { s with pending := e :: s.pending }

/-- `full(Q) = 0`: a full view is replaced by one that has caught up. -/
def AsyncFifo.withRoom (aw : Nat) (q : AsyncFifo) : AsyncFifo :=
  if q.full aw then { q with rq2 := q.wgray } else q

/-- `full(Q) = 1`. -/
def AsyncFifo.withoutRoom (aw : Nat) (q : AsyncFifo) : AsyncFifo := { q with rq2 := q.wgray ^^^ fullMask aw }

/-- `empty(Q) = 0`, with the byte `b` at the removal cursor. -/
def AsyncFifo.withFront (aw : Nat) (b : Byte) (q : AsyncFifo) : AsyncFifo :=
  { q with wq2 := q.rgray ^^^ 1, mem := q.mem.write (q.rbin % 2 ^ aw) b }

/-- `empty(Q) = 1`. -/
def AsyncFifo.withoutFront (q : AsyncFifo) : AsyncFifo := { q with wq2 := q.rgray }

/-- The staging queue holding just the byte `b`. -/
def stageByte (b : Byte) (s : State) : State :=
  s.setStq ⟨s.stq.mem.write 0 b, nextCursor s.cfg.stDepth 0, 0, 1⟩

/-- The sequencer at PARSE with the byte `b` staged, and a core edge next. -/
def placeParse (b : Byte) (s : State) : State :=
  placeEnv (.core false false false) ((stageByte b s).setPhase .parse)

/-- The parser in state `st`, about to consume the byte `b`. -/
def placeParserStep (st : PState) (b : Byte) (s : State) : State := placeParse b (s.setPstate st)

/-- The hex character of a nibble, digits and upper case. -/
def hexChar (v : Nibble) : Byte := if v.toNat < 10 then 0x30 + v.setWidth 8 else 0x37 + v.setWidth 8

/-- The parser in RecordType with the high nibble of the type byte `t` taken, about to consume the low one. -/
def placeRecordType (t : Byte) (s : State) : State :=
  placeParserStep .recordType (hexChar (t.extractLsb' 0 4))
    (s.setPend { s.pend with acc := t.extractLsb' 4 4 ++ (0 : Nibble), nibPhase := true, rtRem := 1 })

/-- The state with all that it takes for the very next step to select and run the instruction `i`: the inputs of
the next edge, and the registers its control vector and its operand come from. Unchanged for the queue primitives
and the helpers, which run only as parts of an edge's operation. -/
def placeInstr (i : Instr) (s : State) : State :=
  match i with
  | .pInitSkip b => placeParserStep .init b s
  | .pInitStart => placeParserStep .init 0x3A s
  | .pInitBad b => placeParserStep .init b s
  | .pBcNib b => placeParserStep .byteCount b s
  | .pBcBad b => placeParserStep .byteCount b s
  | .pAddrNib b => placeParserStep .address b s
  | .pAddrBad b => placeParserStep .address b s
  | .pRtNib b => placeParserStep .recordType b s
  | .pRtBad b => placeParserStep .recordType b s
  | .pDataNib b => placeParserStep .data b s
  | .pDataBad b => placeParserStep .data b s
  | .pCkNib b => placeParserStep .checksum b s
  | .pCkBad b => placeParserStep .checksum b s
  | .pEndAny b => placeParserStep .endState b s
  | .pErrAny b => placeParserStep .error b s
  | .pErrResync => placeParserStep .error 0x3A s
  | .recData => placeRecordType 0x00 s
  | .recEof => placeRecordType 0x01 s
  | .recUnsupported t => placeRecordType t s
  | .rxPush d => placeEnv (.rx true d false) (s.setRxq (s.rxq.withRoom s.cfg.rxAw))
  | .rxDrop d => placeEnv (.rx true d false) (s.setRxq (s.rxq.withoutRoom s.cfg.rxAw))
  | .rxIdle => placeEnv (.rx false 0x00 false) s
  | .coreClr => placeEnv (.core true false false) s
  | .corePumpMove =>
    placeEnv (.core false false false) ((s.setRxq (s.rxq.withFront s.cfg.rxAw 0x00)).setPhase .pump)
  | .corePumpDone => placeEnv (.core false false false) ((s.setRxq s.rxq.withoutFront).setPhase .pump)
  | .coreParse => placeParse 0x00 s
  | .coreParseNop =>
    placeEnv (.core false false false) ((s.setStq { s.stq with cnt := 0 }).setPhase .parse)
  | .coreArm => placeEnv (.core false false false) (s.setPhase .arm)
  | .txSend =>
    placeEnv (.tx true false false)
      ((s.setTxq (s.txq.withFront s.cfg.txAw 0x00)).setTr { s.tr with txIe := true })
  | .txPark =>
    placeEnv (.tx true false false) ((s.setTxq s.txq.withoutFront).setTr { s.tr with txIe := true })
  | .txIdle => placeEnv (.tx false false false) s
  | .stqEnq _ => s
  | .stqDeq => s
  | .aqPush _ _ => s
  | .aqPop _ => s
  | .reset => placeEnv .rst s
  | .rxEdge valid d late => placeEnv (.rx valid d late) s
  | .txEdge ready lateTx lateArm => placeEnv (.tx ready lateTx lateArm) s
  | .coreEdge clr lateRx lateTx => placeEnv (.core clr lateRx lateTx) s
  | .parserStep b => placeParse b s
  | .hexDecode _ => s
  | .takeNibble _ => s
  | .resetPending => s
  | .startRecord => s
  | .cksumClear => s
  | .cksumAdd _ => s
  | .beginPage => s
  | .appendByte _ => s
  | .commit => s
  | .enterError _ => s
  | .diagPush _ => s
  | .aqSync _ _ => s
  | .armSync _ => s
  | .sample _ _ => s
  | .stqLen => s
  | .aqLen _ _ => s

end Sys2Proof.Machine
end

