-- ==== Sys2Proof/Machine/Step.lean ====
section
/-! DEFINITION. One step of the machine: the environment's next choice is taken, the instruction it selects is fetched, decoded and run by `exec`, and the edge's unconditional part is done around it. -/

namespace Sys2Proof.Machine

/-- One step under the choice `e` of the environment. -/
def stepWith (e : EnvStep) (s : State) : Host.Outcome State Fault Refusal :=
  match fetch e s with
  | .ok (i, _) => mapNext (endEdge e) (exec i (beginEdge e s))
  | .error _ => .refused .undecodable

/-- One step of the machine (spec/00_scope.md R3). -/
def step (s : State) : Host.Outcome State Fault Refusal := stepWith (takeEnv s).1 (takeEnv s).2

/-- The state whose very next step runs the instruction of the opcode table's word `w` (log 16); a word that is
no instruction places nothing. -/
def State.withFetchWord (s : State) (nbits w : Nat) : State :=
  match decodeTable s.cfg.resyncOnColon nbits w with
  | some i => placeInstr i s
  | none => s

end Sys2Proof.Machine
end

