-- ==== Sys2Proof/Machine/Execution.lean ====
section
/-! DEFINITION. Executions of the block (spec/00_scope.md R3): interleavings of the edges of the three clock domains and of `Reset` in which every clock ticks infinitely often, and the bytes that the environment offers in one (spec/70_reset_and_hazards.md R238). -/

namespace Sys2Proof.Machine

/-- The three clock domains (spec/00_scope.md R3). -/
inductive Domain where
  /-- `clk_rx`, whose step is `RxEdge`. -/
  | receive
  /-- `clk_core`, whose step is `CoreEdge`. -/
  | core
  /-- `clk_tx`, whose step is `TxEdge`. -/
  | transmit
  deriving DecidableEq, Repr

/-- The domain whose clock ticks in a step; none in `Reset` (spec/00_scope.md R3). -/
def clockOf : EnvStep → Option Domain
  | .rx _ _ _ => some .receive
  | .core _ _ _ => some .core
  | .tx _ _ _ => some .transmit
  | .rst => none

/-- "An execution is any interleaving of `RxEdge`, `CoreEdge`, `TxEdge` and `Reset` steps in which each of the three
clocks ticks infinitely often (weak fairness)" (spec/00_scope.md R3). The state before each step, and what the
environment chooses at it. -/
structure Execution where
  states : Nat → State
  choices : Nat → EnvStep
  /-- Each state is the step of the one before it under the environment's choice. -/
  steps : ∀ n, stepWith (choices n) (states n) = .next (states (n + 1))
  /-- Weak fairness: after every point each clock ticks again. -/
  fair : ∀ (d : Domain) (n : Nat), ∃ m, n ≤ m ∧ clockOf (choices m) = some d

/-- The byte a step offers at `rx_valid`, if it offers one (spec/70_reset_and_hazards.md R238). -/
def offeredAt : EnvStep → List Byte
  | .rx valid d _ => if valid then [d] else []
  | .core _ _ _ => []
  | .tx _ _ _ => []
  | .rst => []

/-- The bytes offered at `rx_valid` before the `n`-th state, oldest first (spec/70_reset_and_hazards.md R238). -/
def Execution.offered (x : Execution) : Nat → List Byte
  | 0 => []
  | n + 1 => x.offered n ++ offeredAt (x.choices n)

end Sys2Proof.Machine
end

