-- ==== Sys2Proof/Machine/Ports.lean ====
section
/-! DEFINITION. The output ports that are wires (spec/10_state.md R22): functions of the state, and for the page read port of the input `pg_raddr`. The registered outputs (`tx_valid`, `tx_data`, `tx_ie`, `commit_valid`, `eof_valid`) are fields of State. Reading a port has no side effect (spec/20_memory.md R48). -/

namespace Sys2Proof.Machine

/-- `rxq_full` (spec/40_bytequeue.md R90). -/
def rxqFull (s : State) : Bool := s.rxq.full s.cfg.rxAw

/-- `commit_addr`, equal to `pg_addr`. -/
def commitAddr (s : State) : Addr := s.page.addr

/-- `commit_len`, equal to `pg_len`. -/
def commitLen (s : State) : Nat := s.page.len

/-- `pg_rdata`, equal to `pg_data[pg_raddr]` when `pg_raddr < PAGE_SIZE`, else a free value (log 6). -/
def pgRdata (raddr : Byte) (s : State) : Byte :=
  if raddr.toNat < s.cfg.pageSize then s.page.data.read .pgData raddr.toNat
  else Config.outsidePageByte raddr.toNat

/-- `pstate_o`, the code of `pstate` (spec/30_encoding.md R72). -/
def pstateO (s : State) : BitVec 3 := pstateCode s.pstate

/-- `err_cause_o`, the code of `err_cause` (spec/30_encoding.md R72). -/
def errCauseO (s : State) : BitVec 2 := errCauseCode s.errCause

end Sys2Proof.Machine
end

