-- ==== Sys2Proof/Safety.lean ====
section
/-! DEFINITION. What a good state is: the invariants that the spec states for every reachable state (spec/10_state.md R12, R19, spec/20_memory.md R53, spec/40_bytequeue.md R85, R97, spec/43_parser.md R158), the abstract contents of the queues (R51, R85), the end of a run (spec/70_reset_and_hazards.md R238), and the reading of a record's text (spec/30_encoding.md R60, R65). -/

namespace Sys2Proof.Machine

/-! ### The asynchronous FIFOs -/

/-- Pointers within their width, and the Gray copies those of the binary pointers (spec/10_state.md R11, R12). -/
abbrev AsyncFifo.Coded (aw : Nat) (q : AsyncFifo) : Prop :=
  q.wbin < 2 ^ (aw + 1) ∧ q.rbin < 2 ^ (aw + 1) ∧ q.rq1 < 2 ^ (aw + 1) ∧ q.rq2 < 2 ^ (aw + 1) ∧
  q.wq1 < 2 ^ (aw + 1) ∧ q.wq2 < 2 ^ (aw + 1) ∧ q.wgray = bin2gray q.wbin ∧ q.rgray = bin2gray q.rbin

/-- The write side's views lag the read pointer, oldest last, and the write pointer is at most `DEPTH` ahead of
the oldest of them (spec/20_memory.md R53, spec/40_bytequeue.md R92). -/
abbrev AsyncFifo.WriteViews (aw : Nat) (q : AsyncFifo) : Prop :=
  q.wrCount aw = q.trueCount aw + pointerDiff (aw + 1) q.rbin (gray2bin (aw + 1) q.rq1)
      + pointerDiff (aw + 1) (gray2bin (aw + 1) q.rq1) (gray2bin (aw + 1) q.rq2) ∧
  q.wrCount aw ≤ 2 ^ aw

/-- The read side's views lag the write pointer, oldest last, and none is behind the read pointer
(spec/20_memory.md R53, spec/40_bytequeue.md R92). -/
abbrev AsyncFifo.ReadViews (aw : Nat) (q : AsyncFifo) : Prop :=
  q.trueCount aw = q.rdCount aw + pointerDiff (aw + 1) q.wbin (gray2bin (aw + 1) q.wq1)
      + pointerDiff (aw + 1) (gray2bin (aw + 1) q.wq1) (gray2bin (aw + 1) q.wq2)

/-- A fresh signal's previous value is the one before its last increment, and the first synchroniser stage has
not seen that increment yet (spec/10_state.md R20, spec/40_bytequeue.md R96). -/
abbrev AsyncFifo.Ghosts (aw : Nat) (q : AsyncFifo) : Prop :=
  (q.rgrayFresh = true → q.rgrayPrev = bin2gray (pointerDiff (aw + 1) q.rbin 1) ∧
    q.rbin ≠ gray2bin (aw + 1) q.rq1) ∧
  (q.wgrayFresh = true → q.wgrayPrev = bin2gray (pointerDiff (aw + 1) q.wbin 1) ∧
    q.wbin ≠ gray2bin (aw + 1) q.wq1)

/-- The invariant of an asynchronous FIFO of address width `aw`. -/
structure AsyncFifo.Inv (aw : Nat) (q : AsyncFifo) : Prop where
  memory : q.mem.wf (2 ^ aw) = true
  coded : q.Coded aw
  writeViews : q.WriteViews aw
  readViews : q.ReadViews aw
  ghosts : q.Ghosts aw

/-- The pending bytes, oldest first (spec/20_memory.md R51, spec/40_bytequeue.md R93, R94). -/
def AsyncFifo.contents (id : ArrayId) (aw : Nat) (q : AsyncFifo) : List Byte :=
  (List.range (q.trueCount aw)).map (fun k => q.mem.read id ((q.rbin + k) % 2 ^ aw))

/-! ### The staging queue -/

/-- spec/40_bytequeue.md R85. -/
structure StagingQueue.Inv (depth : Nat) (q : StagingQueue) : Prop where
  memory : q.mem.wf depth = true
  inp_lt : q.inp < depth
  out_lt : q.out < depth
  cnt_le : q.cnt ≤ depth
  inp_eq : q.inp = (q.out + q.cnt) % depth

/-- "The pending bytes are `stq.mem[(stq.out + k) mod ST_DEPTH]` for `k = 0 .. stq.cnt - 1`, oldest first"
(spec/40_bytequeue.md R85). -/
def StagingQueue.contents (depth : Nat) (q : StagingQueue) : List Byte :=
  (List.range q.cnt).map (fun k => q.mem.read .stqMem ((q.out + k) % depth))

/-! ### The parser -/

/-- The counters of a state of the parser (spec/43_parser.md R158); in the states the rule gives only some
counters for, the others too, at the values the rules of `StartRecord` and of the earlier fields leave. -/
abbrev PendingInv (st : PState) (p : PendingRecord) (len : Nat) : Prop :=
  match st with
  | .init => p = PendingRecord.initial
  | .byteCount =>
    p.bcRem = (if p.nibPhase then 1 else 2) ∧ p.addrRem = 4 ∧ p.rtRem = 2 ∧ p.ckRem = 2 ∧
    p.recLen = 0 ∧ p.recType = 0 ∧ len = 0
  | .address =>
    p.bcRem = 0 ∧ (if p.nibPhase then p.addrRem = 3 ∨ p.addrRem = 1 else p.addrRem = 4 ∨ p.addrRem = 2) ∧
    p.rtRem = 2 ∧ p.ckRem = 2 ∧ p.recType = 0 ∧ len = 0
  | .recordType =>
    p.bcRem = 0 ∧ p.addrRem = 0 ∧ p.rtRem = (if p.nibPhase then 1 else 2) ∧ p.ckRem = 2 ∧
    p.recType = 0 ∧ len = 0
  | .data =>
    p.bcRem = 0 ∧ p.addrRem = 0 ∧ p.rtRem = 0 ∧ p.ckRem = 2 ∧ p.recType = 0 ∧ len < p.recLen.toNat
  | .checksum =>
    p.bcRem = 0 ∧ p.addrRem = 0 ∧ p.rtRem = 0 ∧ p.ckRem = (if p.nibPhase then 1 else 2) ∧
    p.recType = 0 ∧ len = p.recLen.toNat
  | .endState =>
    p.bcRem = 0 ∧ p.addrRem = 0 ∧ p.rtRem = 0 ∧ (p.ckRem = 2 ∨ p.ckRem = 1) ∧ p.nibPhase = false ∧
    p.recType = 1 ∧ len = 0
  | .error => True

/-- The invariant of the parser registers and the Page (spec/10_state.md R19, spec/43_parser.md R133, R158,
spec/60_exceptions.md R201, R204, spec/45_orchestrator.md R185). -/
structure ParserInv (s : State) : Prop where
  counters : PendingInv s.pstate s.pend s.page.len
  highNibble : s.pend.nibPhase = true → s.pend.acc.extractLsb' 0 4 = 0
  pageLen : s.page.len ≤ 255
  pageData : s.page.data.wf s.cfg.pageSize = true
  errorCause : s.pstate = .error ↔ s.errCause ≠ none
  commitPulse : s.commitValid = true → s.pstate = .init ∧ s.phase = .arm ∧ s.cksum = 0
  eofPulse : s.eofValid = true → s.pstate = .init ∧ s.phase = .arm

/-- The request to arm the transmitter: its ghost fields (spec/10_state.md R20), and "at least one armed state
after last enqueue" (spec/41_transport.md R120): once the ARM phase after a push has run, `arm_req` is 1 for as
long as a diagnostic byte is pending. -/
structure ArmInv (s : State) : Prop where
  ghost : s.tr.armFresh = true → s.tr.armPrev = !s.tr.armReq
  requested : s.phase ≠ .arm → s.txq.trueCount s.cfg.txAw ≠ 0 → s.tr.armReq = true

/-- The invariant of the block. -/
structure State.Inv (s : State) : Prop where
  rxq : s.rxq.Inv s.cfg.rxAw
  txq : s.txq.Inv s.cfg.txAw
  stq : s.stq.Inv s.cfg.stDepth
  parser : ParserInv s
  arm : ArmInv s

/-! ### The end of a run (spec/70_reset_and_hazards.md R238) -/

/-- Both sides' views equal the truth: "`rq2`, `rq1` equal `rgray`; `wq2`, `wq1` equal `wgray`". -/
abbrev AsyncFifo.Settled (q : AsyncFifo) : Prop :=
  q.rq2 = q.rgray ∧ q.rq1 = q.rgray ∧ q.wq2 = q.wgray ∧ q.wq1 = q.wgray

/-- Nothing is under way in the block, whatever the phase: the queues empty, every view at its truth, the
transmitter parked, no pulse. This is the part of the end-of-run condition that every phase of an idle tick keeps
(spec/70_reset_and_hazards.md R238). -/
abbrev State.Quiet (s : State) : Prop :=
  s.rxq.trueCount s.cfg.rxAw = 0 ∧ s.stq.cnt = 0 ∧ s.txq.trueCount s.cfg.txAw = 0 ∧
  s.rxq.Settled ∧ s.txq.Settled ∧
  s.tr.armReq = false ∧ s.tr.armQ1 = false ∧ s.tr.armQ2 = false ∧ s.tr.txIe = false ∧
  s.tr.txValid = false ∧ s.commitValid = false ∧ s.eofValid = false

/-- What the end-of-run condition asks of the state: quiet, and `phase = PUMP` (spec/70_reset_and_hazards.md R238). -/
abbrev State.AtRest (s : State) : Prop := s.Quiet ∧ s.phase = .pump

/-- The whole end-of-run condition at the `n`-th state of an execution over the finite input `input`: "every input
byte has been offered at `rx_valid`, `rx_valid` is 0 from then on", and the state is at rest
(spec/70_reset_and_hazards.md R238). -/
structure Execution.OverAt (x : Execution) (input : List Byte) (n : Nat) : Prop where
  allOffered : x.offered n = input
  noneLater : ∀ m, n ≤ m → offeredAt (x.choices m) = []
  atRest : (x.states n).AtRest

/-- "A run over a finite input is over at the first state in which" the end-of-run condition holds
(spec/70_reset_and_hazards.md R238). -/
def Execution.EndsAt (x : Execution) (input : List Byte) (n : Nat) : Prop :=
  x.OverAt input n ∧ ∀ m, m < n → ¬ x.OverAt input m

/-- No synchroniser can still capture an old value (spec/40_bytequeue.md R96; log 18). -/
abbrev State.NothingFresh (s : State) : Prop :=
  s.rxq.wgrayFresh = false ∧ s.rxq.rgrayFresh = false ∧ s.txq.wgrayFresh = false ∧
  s.txq.rgrayFresh = false ∧ s.tr.armFresh = false

/-- An input of a run that is over: no byte offered, no parser clear, no reset. -/
def isIdleInput : EnvStep → Bool
  | .rx valid _ _ => !valid
  | .core clr _ _ => !clr
  | .tx _ _ _ => true
  | .rst => false

/-! ### Records as text (spec/30_encoding.md R60, R65) -/

/-- The bytes that pairs of hex characters stand for, high nibble first (spec/30_encoding.md R65); `none` if a
character is not HEX or one is left over. -/
def hexBytes : List Byte → Option (List Byte)
  | [] => some []
  | [_] => none
  | a :: b :: rest =>
    if (hexDecode a).1 && (hexDecode b).1 then
      (hexBytes rest).map (fun ys => (nibbleOf a ++ nibbleOf b) :: ys)
    else none

/-- The sum of bytes modulo 256 (spec/44_page_checksum.md R170). -/
def byteSum : List Byte → Byte
  | [] => 0
  | y :: ys => y + byteSum ys

/-- The instructions of a list run one after the other, up to the first that stops. -/
def execAll : List Instr → State → Out
  | [], s => .next s
  | i :: is, s =>
    match exec i s with
    | .next t => execAll is t
    | .fault f => .fault f
    | .refused r => .refused r

/-- `ParserStep` on each byte of a text in turn (spec/43_parser.md R136). -/
def parseText (bs : List Byte) (s : State) : Out := execAll (bs.map .parserStep) s

end Sys2Proof.Machine
end

