-- ==== Sys2Proof/Certificates/Slice0/Obligations.lean ====
section
/-! DEFINITION. The statements for the provers. A result is written as the whole next state, so that every register, flag and array it does not name is unchanged; where an instruction stores into an array, what every index of the array reads afterwards is said too. -/

open Sys2Proof Sys2Proof.Machine

/-! ### The parser's rows (spec/43_parser.md) -/

/-- spec/43_parser.md R130: the three ranges, and `(0, 0xF)` for every other byte, whose 8-bit result is the sentinel
0xFF (R131). What the helper returns stands in `ret`, the model's field (log 13). -/
def Obligations.HexDecodeGivesNibbleOrSentinel : Prop :=
  ∀ (s : State) (b : Byte) (n : Nat), n = b.toNat →
    exec (.hexDecode b) s = .next { s with ret :=
      (if 48 ≤ n ∧ n ≤ 57 then Returned.decoded true (BitVec.ofNat 4 (n - 48))
      else if 65 ≤ n ∧ n ≤ 70 then Returned.decoded true (BitVec.ofNat 4 (n - 55))
      else if 97 ≤ n ∧ n ≤ 102 then Returned.decoded true (BitVec.ofNat 4 (n - 87))
      else Returned.decoded false 15#4) } ∧
    (hexResult b = 0xFF ↔ ¬ (48 ≤ n ∧ n ≤ 57) ∧ ¬ (65 ≤ n ∧ n ≤ 70) ∧ ¬ (97 ≤ n ∧ n ≤ 102))

/-- spec/43_parser.md R133: the first nibble of a byte is the high one. What the helper returns stands in `ret`, the
model's field (log 13). -/
def Obligations.TakeNibbleAssemblesHighThenLow : Prop :=
  ∀ (s : State) (v : Nibble),
    (s.pend.nibPhase = false →
      exec (.takeNibble v) s = .next { s with
        pend := { s.pend with acc := v ++ (0 : Nibble), nibPhase := true }
        ret := .taken none }) ∧
    (s.pend.nibPhase = true →
      exec (.takeNibble v) s = .next { s with
        pend := { s.pend with acc := s.pend.acc.extractLsb' 4 4 ++ v, nibPhase := false }
        ret := .taken (some (s.pend.acc.extractLsb' 4 4 ++ v)) })

/-- spec/43_parser.md R134, R135, spec/44_page_checksum.md R174: what the three helpers write, every byte of the
cleared page reading 0x00, and that nothing else changes. -/
def Obligations.StartOfRecordHelpersWriteTheirRegisters : Prop :=
  ∀ s : State,
    exec .resetPending s = .next { s with
      pend := { bcRem := 2, addrRem := 4, rtRem := 2, ckRem := 2, acc := 0x00, nibPhase := false,
                recLen := 0x00, recType := 0x00 } } ∧
    ∃ cleared : Memory, (∀ i, cleared.read .pgData i = 0x00) ∧
      exec .beginPage s = .next { s with page := { addr := 0x0000, len := 0, data := cleared } } ∧
      exec .startRecord s = .next { s with
        pend := { bcRem := 2, addrRem := 4, rtRem := 2, ckRem := 2, acc := 0x00, nibPhase := false,
                  recLen := 0x00, recType := 0x00 }
        page := { addr := 0x0000, len := 0, data := cleared }
        cksum := 0x00
        errCause := none }

/-- spec/43_parser.md R137 to R139. -/
def Obligations.InitRowsSkipStartOrRaiseFraming : Prop :=
  ∀ (s : State) (b : Byte),
    (b = 0x0D ∨ b = 0x0A → exec (.pInitSkip b) s = .next { s with pstate := .init }) ∧
    (∃ cleared : Memory, (∀ i, cleared.read .pgData i = 0x00) ∧
      exec .pInitStart s = .next { s with
        pend := PendingRecord.initial
        page := { addr := 0x0000, len := 0, data := cleared }
        cksum := 0x00
        errCause := none
        pstate := .byteCount }) ∧
    (b ≠ 0x3A ∧ b ≠ 0x0D ∧ b ≠ 0x0A →
      exec (.pInitBad b) s =
        .next (diagPush s.cfg.diagFraming { s with pstate := .error, errCause := some .framing }))

/-- spec/43_parser.md R140, R141. -/
def Obligations.ByteCountRowsDecodeTheLength : Prop :=
  ∀ (s : State) (b : Byte),
    (isHex b = true → s.pend.nibPhase = false →
      exec (.pBcNib b) s = .next { s with
        pend := { s.pend with bcRem := s.pend.bcRem - 1, acc := nibbleOf b ++ (0 : Nibble), nibPhase := true }
        pstate := .byteCount }) ∧
    (isHex b = true → s.pend.nibPhase = true → ∀ y : Byte, y = s.pend.acc.extractLsb' 4 4 ++ nibbleOf b →
      exec (.pBcNib b) s = .next { s with
        pend := { s.pend with bcRem := s.pend.bcRem - 1, acc := y, nibPhase := false, recLen := y }
        cksum := s.cksum + y
        pstate := .address }) ∧
    (isHex b = false →
      exec (.pBcBad b) s =
        .next (diagPush s.cfg.diagFraming { s with pstate := .error, errCause := some .framing }))

/-- spec/43_parser.md R142, R143; spec/20_memory.md R44: the second nibble completes the high byte of the address,
the fourth its low byte. The clause for `addr_rem` neither 3 nor 1 reads the pseudocode literally (log 20). -/
def Obligations.AddressRowsBindBigEndianAddress : Prop :=
  ∀ (s : State) (b : Byte),
    (isHex b = true → s.pend.nibPhase = false →
      exec (.pAddrNib b) s = .next { s with
        pend := { s.pend with addrRem := s.pend.addrRem - 1, acc := nibbleOf b ++ (0 : Nibble), nibPhase := true }
        pstate := .address }) ∧
    (isHex b = true → s.pend.nibPhase = true → ∀ y : Byte, y = s.pend.acc.extractLsb' 4 4 ++ nibbleOf b →
      (s.pend.addrRem = 3 → exec (.pAddrNib b) s = .next { s with
        pend := { s.pend with addrRem := 2, acc := y, nibPhase := false }
        cksum := s.cksum + y
        page := { s.page with addr := y ++ s.page.addr.extractLsb' 0 8 }
        pstate := .address }) ∧
      (s.pend.addrRem = 1 → exec (.pAddrNib b) s = .next { s with
        pend := { s.pend with addrRem := 0, acc := y, nibPhase := false }
        cksum := s.cksum + y
        page := { s.page with addr := s.page.addr.extractLsb' 8 8 ++ y }
        pstate := .recordType }) ∧
      (s.pend.addrRem ≠ 3 → s.pend.addrRem ≠ 1 → exec (.pAddrNib b) s = .next { s with
        pend := { s.pend with addrRem := s.pend.addrRem - 1, acc := y, nibPhase := false }
        cksum := s.cksum + y })) ∧
    (isHex b = false →
      exec (.pAddrBad b) s =
        .next (diagPush s.cfg.diagFraming { s with pstate := .error, errCause := some .framing }))

/-- spec/43_parser.md R144, R148, and R145 to R147 for the type byte just completed. -/
def Obligations.RecordTypeRowsChooseTheKind : Prop :=
  ∀ (s : State) (b : Byte),
    (isHex b = true → s.pend.nibPhase = false →
      exec (.pRtNib b) s = .next { s with
        pend := { s.pend with rtRem := s.pend.rtRem - 1, acc := nibbleOf b ++ (0 : Nibble), nibPhase := true }
        pstate := .recordType }) ∧
    (isHex b = true → s.pend.nibPhase = true →
      ∀ (t : Byte) (u : State), t = s.pend.acc.extractLsb' 4 4 ++ nibbleOf b →
        u = { s with
          pend := { s.pend with rtRem := s.pend.rtRem - 1, acc := t, nibPhase := false, recType := t }
          cksum := s.cksum + t } →
        (t = 0x00 → exec (.pRtNib b) s =
          .next { u with pstate := if s.pend.recLen = 0x00 then .checksum else .data }) ∧
        (t = 0x01 → exec (.pRtNib b) s = .next { u with pstate := .endState }) ∧
        (t ≠ 0x00 → t ≠ 0x01 → exec (.pRtNib b) s =
          .next (diagPush s.cfg.diagRectype { u with pstate := .error, errCause := some .recType }))) ∧
    (isHex b = false →
      exec (.pRtBad b) s =
        .next (diagPush s.cfg.diagFraming { s with pstate := .error, errCause := some .framing }))

/-- spec/43_parser.md R145 to R147; a type byte of another kind is no `REC.UNSUPPORTED` row (log 11). -/
def Obligations.RecordKindsSetTheNextState : Prop :=
  ∀ (s : State) (t : Byte),
    (s.pend.recLen = 0x00 → exec .recData s = .next { s with pstate := .checksum }) ∧
    (s.pend.recLen ≠ 0x00 → exec .recData s = .next { s with pstate := .data }) ∧
    exec .recEof s = .next { s with pstate := .endState } ∧
    (t ≠ 0x00 ∧ t ≠ 0x01 → exec (.recUnsupported t) s =
      .next (diagPush s.cfg.diagRectype { s with pstate := .error, errCause := some .recType })) ∧
    (t = 0x00 ∨ t = 0x01 → exec (.recUnsupported t) s = .refused (.noSuchRow "REC.UNSUPPORTED"))

/-- spec/43_parser.md R149, R150; the clause for a page that is full is the model's own (log 10). -/
def Obligations.DataRowsAppendToThePage : Prop :=
  ∀ (s : State) (b : Byte),
    (isHex b = true → s.pend.nibPhase = false →
      exec (.pDataNib b) s = .next { s with
        pend := { s.pend with acc := nibbleOf b ++ (0 : Nibble), nibPhase := true }
        pstate := .data }) ∧
    (isHex b = true → s.pend.nibPhase = true → s.page.len < s.cfg.pageSize →
      s.page.data.wf s.cfg.pageSize = true → ∀ y : Byte, y = s.pend.acc.extractLsb' 4 4 ++ nibbleOf b →
      ∃ data : Memory,
        (∀ i, data.read .pgData i = if i = s.page.len then y else s.page.data.read .pgData i) ∧
        exec (.pDataNib b) s = .next { s with
          pend := { s.pend with acc := y, nibPhase := false }
          page := { s.page with data := data, len := (s.page.len + 1) % 2 ^ s.cfg.pgLw }
          cksum := s.cksum + y
          pstate :=
            if (s.page.len + 1) % 2 ^ s.cfg.pgLw = s.pend.recLen.toNat then .checksum else .data }) ∧
    (isHex b = true → s.pend.nibPhase = true → s.cfg.pageSize ≤ s.page.len →
      exec (.pDataNib b) s = .fault .pageIndexOutOfRange) ∧
    (isHex b = false →
      exec (.pDataBad b) s =
        .next (diagPush s.cfg.diagFraming { s with pstate := .error, errCause := some .framing }))

/-- spec/43_parser.md R151 to R153, R155. -/
def Obligations.ChecksumRowsCommitOrRaise : Prop :=
  ∀ (s : State) (b : Byte),
    (isHex b = true → s.pend.nibPhase = false →
      exec (.pCkNib b) s = .next { s with
        pend := { s.pend with ckRem := s.pend.ckRem - 1, acc := nibbleOf b ++ (0 : Nibble), nibPhase := true }
        pstate := .checksum }) ∧
    (isHex b = true → s.pend.nibPhase = true → ∀ y : Byte, y = s.pend.acc.extractLsb' 4 4 ++ nibbleOf b →
      (s.cksum + y = 0x00 → exec (.pCkNib b) s = .next { s with
        pend := PendingRecord.initial
        cksum := 0x00
        commitValid := true
        trace := .commit s.page.addr ((List.range s.page.len).map (s.page.data.read .pgData)) s.page.len ::
          s.trace
        pstate := .init }) ∧
      (s.cksum + y ≠ 0x00 → exec (.pCkNib b) s = .next (diagPush s.cfg.diagChecksum { s with
        pend := { s.pend with ckRem := s.pend.ckRem - 1, acc := y, nibPhase := false }
        cksum := s.cksum + y
        pstate := .error
        errCause := some .checksum }))) ∧
    (isHex b = false →
      exec (.pCkBad b) s =
        .next (diagPush s.cfg.diagFraming { s with pstate := .error, errCause := some .framing }))

/-- spec/43_parser.md R154: the byte is any byte, and the two drained bytes leave `cksum` and the Page alone. -/
def Obligations.EndRowDrainsTwoBytes : Prop :=
  ∀ (s : State) (b : Byte),
    (s.pend.ckRem ≠ 1 → exec (.pEndAny b) s = .next { s with
      pend := { s.pend with ckRem := s.pend.ckRem - 1 }
      pstate := .endState }) ∧
    (s.pend.ckRem = 1 → exec (.pEndAny b) s = .next { s with
      pend := PendingRecord.initial
      eofValid := true
      txq := (diagPush s.cfg.diagEof s).txq
      trace := .eof :: (diagPush s.cfg.diagEof s).trace
      pstate := .init })

/-- spec/43_parser.md R156, R157; where the row does not exist in the configuration the instruction is refused
(log 11). -/
def Obligations.ErrorRowsEchoOrResynchronise : Prop :=
  ∀ (s : State) (b : Byte),
    (s.cfg.resyncOnColon = false ∨ b ≠ 0x3A → s.cfg.errEcho = false →
      exec (.pErrAny b) s = .next { s with pstate := .error }) ∧
    (s.cfg.resyncOnColon = false ∨ b ≠ 0x3A → s.cfg.errEcho = true →
      exec (.pErrAny b) s = .next (diagPush b { s with pstate := .error })) ∧
    (s.cfg.resyncOnColon = true → ∃ cleared : Memory, (∀ i, cleared.read .pgData i = 0x00) ∧
      exec .pErrResync s = .next { s with
        pend := PendingRecord.initial
        page := { addr := 0x0000, len := 0, data := cleared }
        cksum := 0x00
        errCause := none
        pstate := .byteCount }) ∧
    (s.cfg.resyncOnColon = true → exec (.pErrAny 0x3A) s = .refused (.noSuchRow "P.ERR.ANY")) ∧
    (s.cfg.resyncOnColon = false → exec .pErrResync s = .refused (.noSuchRow "P.ERR.RESYNC"))

/-- spec/43_parser.md R136: `ParserStep(b)` is the one row that `{pstate, b}` selects, and it completes. The
premise says that in Data the page has room; it holds in every state of the invariant. -/
def Obligations.ParserStepRunsTheSelectedRow : Prop :=
  ∀ (s : State) (b : Byte), (s.pstate = .data → s.page.len < s.cfg.pageSize) →
    ∃ (i : Instr) (t : State),
      decode s.cfg.resyncOnColon .pstep [b, (pstateCode s.pstate).setWidth 8] = .ok (i, []) ∧
      exec i s = .next t ∧ exec (.parserStep b) s = .next t

/-! ### The queues (spec/40_bytequeue.md) -/

/-- spec/40_bytequeue.md R82; the clause for a cursor outside the array is the model's own (log 10). -/
def Obligations.StagingEnqueueStoresOrDrops : Prop :=
  ∀ (s : State) (b : Byte),
    (s.stq.cnt = s.cfg.stDepth → exec (.stqEnq b) s = .next { s with
      trace := .dropStaging b :: s.trace
      ret := .accepted false }) ∧
    (s.stq.cnt < s.cfg.stDepth → s.stq.inp < s.cfg.stDepth → s.stq.mem.wf s.cfg.stDepth = true →
      ∃ mem : Memory,
        (∀ i, mem.read .stqMem i = if i = s.stq.inp then b else s.stq.mem.read .stqMem i) ∧
        exec (.stqEnq b) s = .next { s with
          stq := { s.stq with
            mem := mem
            inp := if s.stq.inp + 1 = s.cfg.stDepth then 0 else s.stq.inp + 1
            cnt := s.stq.cnt + 1 }
          ret := .accepted true }) ∧
    (s.stq.cnt ≠ s.cfg.stDepth → s.cfg.stDepth ≤ s.stq.inp →
      exec (.stqEnq b) s = .fault .stagingIndexOutOfRange)

/-- spec/40_bytequeue.md R83, R84; the clause for a cursor outside the array is the model's own (log 10). -/
def Obligations.StagingDequeueTakesTheOldest : Prop :=
  ∀ s : State,
    (s.stq.cnt = 0 → exec .stqDeq s = .next { s with ret := .dequeued none }) ∧
    (s.stq.cnt ≠ 0 → s.stq.out < s.cfg.stDepth → exec .stqDeq s = .next { s with
      stq := { s.stq with
        out := if s.stq.out + 1 = s.cfg.stDepth then 0 else s.stq.out + 1
        cnt := s.stq.cnt - 1 }
      ret := .dequeued (some (s.stq.mem.read .stqMem s.stq.out)) }) ∧
    (s.stq.cnt ≠ 0 → s.cfg.stDepth ≤ s.stq.out → exec .stqDeq s = .fault .stagingIndexOutOfRange) ∧
    exec .stqLen s = .next { s with ret := .count s.stq.cnt }

/-- spec/40_bytequeue.md R93, with `full(Q)` written as spec/40_bytequeue.md R90 has it. -/
def Obligations.FifoPushStoresOrDrops : Prop :=
  ∀ (s : State) (q : QueueId) (b : Byte) (f : AsyncFifo), f = s.fifo q →
    (f.wgray = f.rq2 ^^^ (3 <<< (s.aw q - 1)) → exec (.aqPush q b) s = .next { s with
      trace := .drop q b :: s.trace
      ret := .accepted false }) ∧
    (f.wgray ≠ f.rq2 ^^^ (3 <<< (s.aw q - 1)) → f.mem.wf (2 ^ s.aw q) = true → ∃ mem : Memory,
      (∀ i, mem.read (fifoArray q) i =
        if i = f.wbin % 2 ^ s.aw q then b else f.mem.read (fifoArray q) i) ∧
      exec (.aqPush q b) s = .next { s.setFifo q { f with
          mem := mem
          wbin := (f.wbin + 1) % 2 ^ (s.aw q + 1)
          wgray := bin2gray ((f.wbin + 1) % 2 ^ (s.aw q + 1))
          wgrayPrev := f.wgray
          wgrayFresh := true } with
        ret := .accepted true })

/-- spec/40_bytequeue.md R94, with `empty(Q)` written as spec/40_bytequeue.md R91 has it. -/
def Obligations.FifoPopTakesTheByteAtTheCursor : Prop :=
  ∀ (s : State) (q : QueueId) (f : AsyncFifo), f = s.fifo q →
    (f.rgray = f.wq2 → exec (.aqPop q) s = .next { s with ret := .dequeued none }) ∧
    (f.rgray ≠ f.wq2 → exec (.aqPop q) s = .next { s.setFifo q { f with
        rbin := (f.rbin + 1) % 2 ^ (s.aw q + 1)
        rgray := bin2gray ((f.rbin + 1) % 2 ^ (s.aw q + 1))
        rgrayPrev := f.rgray
        rgrayFresh := true } with
      ret := .dequeued (some (f.mem.read (fifoArray q) (f.rbin % 2 ^ s.aw q))) })

/-- spec/40_bytequeue.md R92: the three counts, as differences modulo `2^PW`. -/
def Obligations.FifoCountsArePointerDifferences : Prop :=
  ∀ (s : State) (q : QueueId) (f : AsyncFifo) (pw : Nat), f = s.fifo q → pw = s.aw q + 1 →
    exec (.aqLen q .write) s = .next { s with
      ret := .count (((f.wbin : Int) - gray2bin pw f.rq2) % 2 ^ pw).toNat } ∧
    exec (.aqLen q .read) s = .next { s with
      ret := .count (((gray2bin pw f.wq2 : Int) - f.rbin) % 2 ^ pw).toNat } ∧
    exec (.aqLen q .truth) s = .next { s with ret := .count (((f.wbin : Int) - f.rbin) % 2 ^ pw).toNat }

/-- spec/40_bytequeue.md R95: the two stages move on, the first one sampling the other side's Gray pointer. -/
def Obligations.SynchroniserUpdateShiftsTheViews : Prop :=
  ∀ (s : State) (late : Bool),
    exec (.aqSync .rxqWrite late) s = .next { s with rxq := { s.rxq with
      rq2 := s.rxq.rq1
      rq1 := if s.rxq.rgrayFresh = true ∧ late = true then s.rxq.rgrayPrev else s.rxq.rgray
      rgrayFresh := false } } ∧
    exec (.aqSync .rxqRead late) s = .next { s with rxq := { s.rxq with
      wq2 := s.rxq.wq1
      wq1 := if s.rxq.wgrayFresh = true ∧ late = true then s.rxq.wgrayPrev else s.rxq.wgray
      wgrayFresh := false } } ∧
    exec (.aqSync .txqWrite late) s = .next { s with txq := { s.txq with
      rq2 := s.txq.rq1
      rq1 := if s.txq.rgrayFresh = true ∧ late = true then s.txq.rgrayPrev else s.txq.rgray
      rgrayFresh := false } } ∧
    exec (.aqSync .txqRead late) s = .next { s with txq := { s.txq with
      wq2 := s.txq.wq1
      wq1 := if s.txq.wgrayFresh = true ∧ late = true then s.txq.wgrayPrev else s.txq.wgray
      wgrayFresh := false } }

/-- spec/40_bytequeue.md R96: the current value, or after a change the one before it; the choice is `late`. -/
def Obligations.SampleTakesOldOrNewValue : Prop :=
  ∀ (s : State) (late : Bool),
    exec (.sample .rxqWgray late) s = .next { s with
      rxq := { s.rxq with wgrayFresh := false }
      ret := .sampled (if s.rxq.wgrayFresh = true ∧ late = true then s.rxq.wgrayPrev else s.rxq.wgray) } ∧
    exec (.sample .rxqRgray late) s = .next { s with
      rxq := { s.rxq with rgrayFresh := false }
      ret := .sampled (if s.rxq.rgrayFresh = true ∧ late = true then s.rxq.rgrayPrev else s.rxq.rgray) } ∧
    exec (.sample .txqWgray late) s = .next { s with
      txq := { s.txq with wgrayFresh := false }
      ret := .sampled (if s.txq.wgrayFresh = true ∧ late = true then s.txq.wgrayPrev else s.txq.wgray) } ∧
    exec (.sample .txqRgray late) s = .next { s with
      txq := { s.txq with rgrayFresh := false }
      ret := .sampled (if s.txq.rgrayFresh = true ∧ late = true then s.txq.rgrayPrev else s.txq.rgray) } ∧
    exec (.sample .armReq late) s = .next { s with
      tr := { s.tr with armFresh := false }
      ret := .sampled (bit (if s.tr.armFresh = true ∧ late = true then s.tr.armPrev else s.tr.armReq)) }

/-- spec/40_bytequeue.md R99, spec/41_transport.md R117: for every crossing signal, whatever the samples, after one
edge of the destination domain the first stage holds the signal's present or previous value, after two with no change
of the source the present one, and after three the second stage holds it. In an execution, whose clocks all tick
infinitely often (spec/00_scope.md R3), the second stage comes to hold a value that the source keeps from some point
on, and holds it from then on. -/
def Obligations.ViewCatchesUpInThreeEdges : Prop :=
  (∀ (q : AsyncFifo) (l1 l2 l3 : Bool),
    ((q.syncRead l1).wq1 = q.wgray ∨ (q.syncRead l1).wq1 = q.wgrayPrev) ∧
    ((q.syncRead l1).syncRead l2).wq1 = q.wgray ∧
    (((q.syncRead l1).syncRead l2).syncRead l3).wq2 = q.wgray ∧
    ((q.syncWrite l1).rq1 = q.rgray ∨ (q.syncWrite l1).rq1 = q.rgrayPrev) ∧
    ((q.syncWrite l1).syncWrite l2).rq1 = q.rgray ∧
    (((q.syncWrite l1).syncWrite l2).syncWrite l3).rq2 = q.rgray) ∧
  (∀ (s : State) (l1 l2 l3 : Bool),
    ((armSync l1 s).tr.armQ1 = s.tr.armReq ∨ (armSync l1 s).tr.armQ1 = s.tr.armPrev) ∧
    (armSync l2 (armSync l1 s)).tr.armQ1 = s.tr.armReq ∧
    (armSync l3 (armSync l2 (armSync l1 s))).tr.armQ2 = s.tr.armReq) ∧
  (∀ (x : Execution) (n : Nat),
    ((∀ m, n ≤ m → (x.states m).rxq.wgray = (x.states n).rxq.wgray) →
      ∃ k, ∀ m, k ≤ m → (x.states m).rxq.wq2 = (x.states n).rxq.wgray) ∧
    ((∀ m, n ≤ m → (x.states m).rxq.rgray = (x.states n).rxq.rgray) →
      ∃ k, ∀ m, k ≤ m → (x.states m).rxq.rq2 = (x.states n).rxq.rgray) ∧
    ((∀ m, n ≤ m → (x.states m).txq.wgray = (x.states n).txq.wgray) →
      ∃ k, ∀ m, k ≤ m → (x.states m).txq.wq2 = (x.states n).txq.wgray) ∧
    ((∀ m, n ≤ m → (x.states m).txq.rgray = (x.states n).txq.rgray) →
      ∃ k, ∀ m, k ≤ m → (x.states m).txq.rq2 = (x.states n).txq.rgray) ∧
    ((∀ m, n ≤ m → (x.states m).tr.armReq = (x.states n).tr.armReq) →
      ∃ k, ∀ m, k ≤ m → (x.states m).tr.armQ2 = (x.states n).tr.armReq))

/-! ### The Transport (spec/41_transport.md) -/

/-- spec/41_transport.md R110 to R112: the operations, without the edge's synchroniser update. The clause
for `RX.PUSH` on a full view is the model's own (log 12). -/
def Obligations.ReceiveOperationsStoreDropOrIdle : Prop :=
  ∀ (s : State) (d : Byte),
    (s.rxq.full s.cfg.rxAw = false → s.rxq.mem.wf (2 ^ s.cfg.rxAw) = true → ∃ mem : Memory,
      (∀ i, mem.read .rxqMem i =
        if i = s.rxq.wbin % 2 ^ s.cfg.rxAw then d else s.rxq.mem.read .rxqMem i) ∧
      exec (.rxPush d) s = .next { s with rxq := { s.rxq with
        mem := mem
        wbin := (s.rxq.wbin + 1) % 2 ^ (s.cfg.rxAw + 1)
        wgray := bin2gray ((s.rxq.wbin + 1) % 2 ^ (s.cfg.rxAw + 1))
        wgrayPrev := s.rxq.wgray
        wgrayFresh := true } }) ∧
    (s.rxq.full s.cfg.rxAw = true →
      exec (.rxPush d) s = .next { s with trace := .drop .rxq d :: s.trace }) ∧
    exec (.rxDrop d) s = .next { s with trace := .drop .rxq d :: s.trace } ∧
    exec .rxIdle s = .next s

/-- spec/41_transport.md R118: a receive edge is the synchroniser update of the write side of `rxq` and the
operation that `{rx_valid, full(rxq)}` selects, both from pre-edge values, and touches nothing else. -/
def Obligations.ReceiveEdgeSynchronisesAndStores : Prop :=
  ∀ (s : State) (d : Byte) (late : Bool) (stage : Nat),
    stage = (if s.rxq.rgrayFresh = true ∧ late = true then s.rxq.rgrayPrev else s.rxq.rgray) →
    exec (.rxEdge false d late) s = .next { s with rxq := { s.rxq with
      rq2 := s.rxq.rq1, rq1 := stage, rgrayFresh := false } } ∧
    (s.rxq.full s.cfg.rxAw = true → exec (.rxEdge true d late) s = .next { s with
      rxq := { s.rxq with rq2 := s.rxq.rq1, rq1 := stage, rgrayFresh := false }
      trace := .drop .rxq d :: s.trace }) ∧
    (s.rxq.full s.cfg.rxAw = false → exec (.rxEdge true d late) s = .next { s with rxq := { s.rxq with
      mem := s.rxq.mem.write (s.rxq.wbin % 2 ^ s.cfg.rxAw) d
      wbin := (s.rxq.wbin + 1) % 2 ^ (s.cfg.rxAw + 1)
      wgray := bin2gray ((s.rxq.wbin + 1) % 2 ^ (s.cfg.rxAw + 1))
      wgrayPrev := s.rxq.wgray
      wgrayFresh := true
      rq2 := s.rxq.rq1, rq1 := stage, rgrayFresh := false } })

/-- spec/41_transport.md R113 to R115, on the pre-edge `arm_q2` (R117). The clause for `TX.SEND` with no byte
visible is the model's own (log 12). -/
def Obligations.TransmitOperationsSendParkOrIdle : Prop :=
  ∀ s : State,
    (s.txq.empty = false → exec .txSend s = .next { s with
      txq := { s.txq with
        rbin := (s.txq.rbin + 1) % 2 ^ (s.cfg.txAw + 1)
        rgray := bin2gray ((s.txq.rbin + 1) % 2 ^ (s.cfg.txAw + 1))
        rgrayPrev := s.txq.rgray
        rgrayFresh := true }
      tr := { s.tr with
        txData := s.txq.mem.read .txqMem (s.txq.rbin % 2 ^ s.cfg.txAw)
        txValid := true
        txIe := true }
      trace := .txByte (s.txq.mem.read .txqMem (s.txq.rbin % 2 ^ s.cfg.txAw)) :: s.trace }) ∧
    (s.txq.empty = true → exec .txSend s = exec .txPark s) ∧
    exec .txPark s = .next { s with tr := { s.tr with txValid := false, txIe := s.tr.armQ2 } } ∧
    exec .txIdle s = .next { s with tr := { s.tr with txValid := false, txIe := s.tr.armQ2 || s.tr.txIe } }

/-- spec/41_transport.md R117: the arm synchroniser, and set wins over clear. -/
def Obligations.ArmSynchroniserForcesEnable : Prop :=
  ∀ (s : State) (late : Bool),
    exec (.armSync late) s = .next { s with tr := { s.tr with
      armQ2 := s.tr.armQ1
      armQ1 := if s.tr.armFresh = true ∧ late = true then s.tr.armPrev else s.tr.armReq
      armFresh := false
      txIe := s.tr.armQ2 || s.tr.txIe } }

/-- spec/41_transport.md R117, R119: a transmit edge, case by case of `fire = tx_ready & tx_ie` and `empty(txq)`,
all from pre-edge values; `tx_ie` follows the one formula of R117. -/
def Obligations.TransmitEdgeFollowsTheEnableFormula : Prop :=
  ∀ (s : State) (ready lateTx lateArm : Bool) (tr : Transport) (txq : AsyncFifo),
    tr = { s.tr with
      armQ2 := s.tr.armQ1
      armQ1 := if s.tr.armFresh = true ∧ lateArm = true then s.tr.armPrev else s.tr.armReq
      armFresh := false
      txIe := if s.tr.armQ2 then true else if ready && s.tr.txIe && s.txq.empty then false else s.tr.txIe } →
    txq = { s.txq with
      wq2 := s.txq.wq1
      wq1 := if s.txq.wgrayFresh = true ∧ lateTx = true then s.txq.wgrayPrev else s.txq.wgray
      wgrayFresh := false } →
    ((ready && s.tr.txIe && !s.txq.empty) = false → exec (.txEdge ready lateTx lateArm) s = .next { s with
      txq := txq
      tr := { tr with txValid := false } }) ∧
    ((ready && s.tr.txIe && !s.txq.empty) = true → exec (.txEdge ready lateTx lateArm) s = .next { s with
      txq := { txq with
        rbin := (s.txq.rbin + 1) % 2 ^ (s.cfg.txAw + 1)
        rgray := bin2gray ((s.txq.rbin + 1) % 2 ^ (s.cfg.txAw + 1))
        rgrayPrev := s.txq.rgray
        rgrayFresh := true }
      tr := { tr with
        txValid := true
        txData := s.txq.mem.read .txqMem (s.txq.rbin % 2 ^ s.cfg.txAw) }
      trace := .txByte (s.txq.mem.read .txqMem (s.txq.rbin % 2 ^ s.cfg.txAw)) :: s.trace })

/-- spec/41_transport.md R116, R120: `arm_req` takes whether the core's view of `txq` is non-empty, the ghost
fields follow a change of value only, and a second arm writes nothing new. -/
def Obligations.ArmRequestsWhileDiagnosticsArePending : Prop :=
  ∀ (s : State) (v : Bool), v = (s.txq.wbin % 2 ^ (s.cfg.txAw + 1) != gray2bin (s.cfg.txAw + 1) s.txq.rq2) →
    (s.tr.armReq = v → exec .coreArm s = .next { s with phase := .pump }) ∧
    (s.tr.armReq ≠ v → exec .coreArm s = .next { s with
      tr := { s.tr with armReq := v, armPrev := s.tr.armReq, armFresh := true }
      phase := .pump }) ∧
    ∀ t, exec .coreArm s = .next t → exec .coreArm t = .next t

/-! ### The core edge (spec/42_relay.md, spec/45_orchestrator.md) -/

/-- spec/42_relay.md R125: the byte leaves `rxq` whether or not `stq` takes it. The clause for no byte visible is
the model's own (log 12). -/
def Obligations.PumpMovesOneByte : Prop :=
  ∀ (s : State) (b : Byte) (rxq : AsyncFifo),
    b = s.rxq.mem.read .rxqMem (s.rxq.rbin % 2 ^ s.cfg.rxAw) →
    rxq = { s.rxq with
      rbin := (s.rxq.rbin + 1) % 2 ^ (s.cfg.rxAw + 1)
      rgray := bin2gray ((s.rxq.rbin + 1) % 2 ^ (s.cfg.rxAw + 1))
      rgrayPrev := s.rxq.rgray
      rgrayFresh := true } →
    (s.rxq.empty = false → s.stq.cnt = s.cfg.stDepth → exec .corePumpMove s = .next { s with
      rxq := rxq
      trace := .dropStaging b :: s.trace
      phase := .pump }) ∧
    (s.rxq.empty = false → s.stq.cnt < s.cfg.stDepth → s.stq.inp < s.cfg.stDepth →
      s.stq.mem.wf s.cfg.stDepth = true → ∃ mem : Memory,
        (∀ i, mem.read .stqMem i = if i = s.stq.inp then b else s.stq.mem.read .stqMem i) ∧
        exec .corePumpMove s = .next { s with
          rxq := rxq
          stq := { s.stq with
            mem := mem
            inp := if s.stq.inp + 1 = s.cfg.stDepth then 0 else s.stq.inp + 1
            cnt := s.stq.cnt + 1 }
          phase := .pump }) ∧
    (s.rxq.empty = true → exec .corePumpMove s = exec .corePumpDone s)

/-- spec/45_orchestrator.md R187, R189: the two operations that only advance the phase. -/
def Obligations.EmptyPhasesOnlyAdvance : Prop :=
  ∀ s : State,
    exec .corePumpDone s = .next { s with phase := .parse } ∧
    exec .coreParseNop s = .next { s with phase := .arm }

/-- spec/45_orchestrator.md R188: the oldest staged byte is consumed and `ParserStep` runs on it. The premises
say that the cursor is in range and that in Data the page has room; both hold in every state of the invariant. -/
def Obligations.ParseConsumesOneStagedByte : Prop :=
  ∀ s : State, s.stq.cnt ≠ 0 → s.stq.out < s.cfg.stDepth → (s.pstate = .data → s.page.len < s.cfg.pageSize) →
    ∃ t : State,
      exec (.parserStep (s.stq.mem.read .stqMem s.stq.out)) { s with stq := { s.stq with
        out := if s.stq.out + 1 = s.cfg.stDepth then 0 else s.stq.out + 1
        cnt := s.stq.cnt - 1 } } = .next t ∧
      exec .coreParse s = .next { t with phase := .arm }

/-- spec/43_parser.md R160, spec/70_reset_and_hazards.md R224: the partial reset. -/
def Obligations.ParserClearReinitialisesTheParser : Prop :=
  ∀ s : State, exec .coreClr s = .next { s with
    pend := { bcRem := 2, addrRem := 4, rtRem := 2, ckRem := 2, acc := 0x00, nibPhase := false,
              recLen := 0x00, recType := 0x00 }
    pstate := .init
    errCause := none
    cksum := 0x00
    page := { s.page with addr := 0x0000, len := 0 }
    commitValid := false
    eofValid := false }

/-- spec/45_orchestrator.md R185, R186: a core edge runs the one operation its vector selects, after the two
pulses are cleared, and shifts the views of `rxq`'s write pointer and `txq`'s read pointer, all from pre-edge
values. The premises say that the cursors are in range and that in Data the page has room. -/
def Obligations.CoreEdgeRunsTheSelectedOperation : Prop :=
  ∀ (s : State) (clr lateRx lateTx : Bool),
    s.stq.inp < s.cfg.stDepth → s.stq.out < s.cfg.stDepth →
    (s.pstate = .data → s.page.len < s.cfg.pageSize) →
    ∃ (i : Instr) (t : State),
      decodeCoreVector (coreVector clr s) = .ok i ∧
      exec i { s with commitValid := false, eofValid := false } = .next t ∧
      exec (.coreEdge clr lateRx lateTx) s = .next { t with
        rxq := { t.rxq with
          wq2 := s.rxq.wq1
          wq1 := if s.rxq.wgrayFresh = true ∧ lateRx = true then s.rxq.wgrayPrev else s.rxq.wgray
          wgrayFresh := false }
        txq := { t.txq with
          rq2 := s.txq.rq1
          rq1 := if s.txq.rgrayFresh = true ∧ lateTx = true then s.txq.rgrayPrev else s.txq.rgray
          rgrayFresh := false } }

/-! ### Page, checksum, diagnostics, errors (spec/44_page_checksum.md, spec/60_exceptions.md) -/

/-- spec/44_page_checksum.md R171, R172: the accumulator is cleared, and adds modulo 256. -/
def Obligations.ChecksumAccumulatorAddsModulo256 : Prop :=
  ∀ (s : State) (y : Byte),
    exec .cksumClear s = .next { s with cksum := 0x00 } ∧
    exec (.cksumAdd y) s = .next { s with cksum := BitVec.ofNat 8 ((s.cksum.toNat + y.toNat) % 256) }

/-- spec/44_page_checksum.md R175, R176: the byte is stored at `pg_len` and no other byte of the page changes; a
commit pulses with a snapshot of the page. The fault clause is the model's own (log 10). -/
def Obligations.PageAppendStoresAndCommitPulses : Prop :=
  ∀ (s : State) (y : Byte),
    (s.page.len < s.cfg.pageSize → s.page.data.wf s.cfg.pageSize = true → ∃ data : Memory,
      (∀ i, data.read .pgData i = if i = s.page.len then y else s.page.data.read .pgData i) ∧
      exec (.appendByte y) s =
        .next { s with page := { addr := s.page.addr, len := s.page.len + 1, data := data } }) ∧
    (s.cfg.pageSize ≤ s.page.len → exec (.appendByte y) s = .fault .pageIndexOutOfRange) ∧
    exec .commit s = .next { s with
      commitValid := true
      trace := .commit s.page.addr ((List.range s.page.len).map (s.page.data.read .pgData)) s.page.len :: s.trace }

/-- spec/60_exceptions.md R203: one byte is pushed into `txq`, or dropped if it is full. -/
def Obligations.DiagnosticIsPushedOrDropped : Prop :=
  ∀ (s : State) (b : Byte),
    (s.txq.full s.cfg.txAw = true → exec (.diagPush b) s = .next { s with trace := .drop .txq b :: s.trace }) ∧
    (s.txq.full s.cfg.txAw = false → s.txq.mem.wf (2 ^ s.cfg.txAw) = true → ∃ mem : Memory,
      (∀ i, mem.read .txqMem i =
        if i = s.txq.wbin % 2 ^ s.cfg.txAw then b else s.txq.mem.read .txqMem i) ∧
      exec (.diagPush b) s = .next { s with txq := { s.txq with
        mem := mem
        wbin := (s.txq.wbin + 1) % 2 ^ (s.cfg.txAw + 1)
        wgray := bin2gray ((s.txq.wbin + 1) % 2 ^ (s.cfg.txAw + 1))
        wgrayPrev := s.txq.wgray
        wgrayFresh := true } })

/-- spec/60_exceptions.md R200, R201: entry into Error writes `pstate` and `err_cause` and pushes the cause's
diagnostic, and changes nothing else. -/
def Obligations.EnterErrorRecordsTheCause : Prop :=
  ∀ s : State,
    exec (.enterError .framing) s =
      exec (.diagPush s.cfg.diagFraming) { s with pstate := .error, errCause := some .framing } ∧
    exec (.enterError .checksum) s =
      exec (.diagPush s.cfg.diagChecksum) { s with pstate := .error, errCause := some .checksum } ∧
    exec (.enterError .recType) s =
      exec (.diagPush s.cfg.diagRectype) { s with pstate := .error, errCause := some .recType } ∧
    ∀ c : Cause, ∃ t : State, exec (.enterError c) s = .next t ∧
      t = { s with pstate := .error, errCause := some c, txq := t.txq, trace := t.trace } ∧
      errCauseO t = (match c with | .framing => 1 | .checksum => 2 | .recType => 3)

/-- spec/70_reset_and_hazards.md R220: every register at its reset value, no array written. `tx_data` takes the
next free value (R221, log 5). -/
def Obligations.ResetWritesEveryRegister : Prop :=
  ∀ s : State, exec .reset s = .next { s with
    rxq := { mem := s.rxq.mem, wbin := 0, wgray := 0, rq1 := 0, rq2 := 0, rbin := 0, rgray := 0, wq1 := 0, wq2 := 0,
             wgrayPrev := 0, wgrayFresh := false, rgrayPrev := 0, rgrayFresh := false }
    txq := { mem := s.txq.mem, wbin := 0, wgray := 0, rq1 := 0, rq2 := 0, rbin := 0, rgray := 0, wq1 := 0, wq2 := 0,
             wgrayPrev := 0, wgrayFresh := false, rgrayPrev := 0, rgrayFresh := false }
    stq := { mem := s.stq.mem, inp := 0, out := 0, cnt := 0 }
    tr := { txIe := false, armReq := false, armQ1 := false, armQ2 := false, txValid := false,
            txData := Config.txDataDraw s.draws, armPrev := false, armFresh := false }
    phase := .pump
    pstate := .init
    pend := { bcRem := 2, addrRem := 4, rtRem := 2, ckRem := 2, acc := 0x00, nibPhase := false,
              recLen := 0x00, recType := 0x00 }
    cksum := 0x00
    page := { addr := 0x0000, len := 0, data := s.page.data }
    errCause := none
    commitValid := false
    eofValid := false
    draws := s.draws + 1 }

/-- spec/70_reset_and_hazards.md R220, R223, spec/10_state.md R22: the state right after reset as its ports show
it, queues empty, not full, transmitter parked. -/
def Obligations.AfterResetEverythingIsIdle : Prop :=
  ∀ s : State, ∃ t : State, exec .reset s = .next t ∧
    rxqFull t = false ∧ t.rxq.empty = true ∧ t.txq.empty = true ∧ t.txq.full t.cfg.txAw = false ∧
    t.rxq.trueCount t.cfg.rxAw = 0 ∧ t.txq.trueCount t.cfg.txAw = 0 ∧ t.stq.cnt = 0 ∧
    t.tr.txIe = false ∧ t.tr.txValid = false ∧ t.commitValid = false ∧ t.eofValid = false ∧
    pstateO t = 0 ∧ errCauseO t = 0 ∧ commitAddr t = 0x0000 ∧ commitLen t = 0 ∧ t.phase = .pump

/-! ### Fetching, decoding and stepping (spec/30_encoding.md) -/

/-- How the model runs a step, which is the model's own choice of form: where the environment's choice comes from (the
oldest one placed in `pending`, else the free environment's at `envTick`) is log 2, how an edge's control vector
(spec/30_encoding.md R70) and its operand are laid out in the frame that is decoded is log 15, and that the instruction
runs between the pulse clearing and the synchroniser updates, to the same effect as the simultaneous commit of the
rules, is log 17. -/
def Obligations.StepRunsTheDecodedInstruction : Prop :=
  ∀ (s : State) (e : EnvStep) (rest : List EnvStep) (i : Instr) (tail : List Byte),
    (s.pending = e :: rest → ∀ u : State, u = { s with pending := rest } →
      decode u.cfg.resyncOnColon (fetchFrame e u).1 (fetchFrame e u).2 = .ok (i, tail) →
      step s = mapNext (endEdge e) (exec i (beginEdge e u))) ∧
    (s.pending = [] → e = Config.environment s.envTick → ∀ u : State, u = { s with envTick := s.envTick + 1 } →
      decode u.cfg.resyncOnColon (fetchFrame e u).1 (fetchFrame e u).2 = .ok (i, tail) →
      step s = mapNext (endEdge e) (exec i (beginEdge e u)))

/-- Two routes to a step agree: decoding the control vector and running the selected instruction with the edge's
unconditional part around it, and the step functions `RxEdge`, `CoreEdge`, `TxEdge` and `Reset` of the HELPER and
RST rows (spec/41_transport.md R118, R119, spec/45_orchestrator.md R186, spec/70_reset_and_hazards.md R220). -/
def Obligations.StepIsTheStepFunctionOfItsDomain : Prop :=
  ∀ (e : EnvStep) (s : State), stepWith e s = exec (edgeInstr e) s

/-- spec/30_encoding.md R66, R67, R70: words written out bit by bit decode to the instructions they stand for. -/
def Obligations.WrittenOutWordsDecode : Prop :=
  decodeTableWord 16 0b000_00111010 = some .pInitStart ∧
  decodeTableWord 16 0b001_01000001 = some (.pBcNib 0x41) ∧
  decodeTableWord 16 0b101_00001101 = some (.pCkBad 0x0D) ∧
  decodeTableWord 16 0b110_10101010 = some (.pEndAny 0xAA) ∧
  decode false .rectype [0b00000001] = .ok (.recEof, []) ∧
  decode false .rxedge [0b10, 0x3A] = .ok (.rxPush 0x3A, []) ∧
  decode false .coreedge [0b0001] = .ok (.corePumpMove, []) ∧
  decode false .coreedge [0b1110] = .ok (.coreClr, []) ∧
  decode false .coreedge [0b0110] = .error .unreachablePhase ∧
  decode false .txedge [0b110] = .ok (.txSend, []) ∧
  decode false (.qop .stqEnq) [0b11, 0x31] = .ok (.stqEnq 0x31, [])

/-- spec/30_encoding.md R66, R71: of the rows of format PSTEP in spec/opcode_table.json exactly one selects each of
the 2048 selectors, and it is the row that the parser state and the symbol class give. -/
def Obligations.EverySelectorHasExactlyOneRow : Prop :=
  ∀ (resync : Bool) (v : Nat), v < 2048 →
    ((pstepRows resync).filter (fun r => r.selects v)).map PstepRow.op =
      [selectPstep resync (pstateOfCode (v / 256)) (BitVec.ofNat 8 v)]

/-- Decoding the encoding of a well-formed instruction gives it back, with every operand, and leaves the bytes
after it. -/
def Obligations.DecodeOfEncodeIsTheInstruction : Prop :=
  ∀ (resync : Bool) (i : Instr) (f : Format) (bs rest : List Byte),
    i.wf resync = true → encode i = some (f, bs) → decode resync f (bs ++ rest) = .ok (i, rest)

/-- What the decoder reads is well-formed, and has an encoding of the same format (spec/30_encoding.md R68: every
byte is accepted with the meaning of R66 or is an error). -/
def Obligations.DecodedInstructionsAreWellFormed : Prop :=
  ∀ (resync : Bool) (f : Format) (bs rest : List Byte) (i : Instr),
    decode resync f bs = .ok (i, rest) →
      i.wf resync = true ∧ ∃ cs, encode i = some (f, cs) ∧ bs.length = cs.length + rest.length

/-! ### The asynchronous FIFO's properties (spec/40_bytequeue.md, spec/20_memory.md) -/

/-- spec/40_bytequeue.md R98: consecutive pointer values, the wrap among them, differ in one bit of Gray code. -/
def Obligations.GrayNeighboursDifferInOneBit : Prop :=
  ∀ n b : Nat, 1 ≤ n → b < 2 ^ n →
    ∃ k, k < n ∧ bin2gray ((b + 1) % 2 ^ n) = bin2gray b ^^^ 2 ^ k

/-- spec/40_bytequeue.md R90 to R92: the comparison of Gray codes finds exactly the full and the empty queue of the
domain's view. -/
def Obligations.FlagsMeanFullAndEmptyViews : Prop :=
  ∀ (aw : Nat) (q : AsyncFifo), 1 ≤ aw → q.Coded aw →
    (q.full aw = true ↔ q.wrCount aw = 2 ^ aw) ∧ (q.empty = true ↔ q.rdCount aw = 0)

/-- spec/20_memory.md R53, spec/40_bytequeue.md R97: the flags err on the safe side: the write side never thinks
the queue emptier than it is, the read side never fuller, so a push is accepted only with room and a pop only
with a byte. -/
def Obligations.FlagsErrOnTheSafeSide : Prop :=
  ∀ (aw : Nat) (q : AsyncFifo), 1 ≤ aw → q.Inv aw →
    q.rdCount aw ≤ q.trueCount aw ∧ q.trueCount aw ≤ q.wrCount aw ∧ q.trueCount aw ≤ 2 ^ aw ∧
    (q.full aw = false → q.trueCount aw < 2 ^ aw) ∧ (q.empty = false → 0 < q.trueCount aw)

/-- spec/20_memory.md R51, R52: an accepted byte goes behind the pending ones, which stay as they are; a rejected
one changes none. -/
def Obligations.PushAppendsToThePendingBytes : Prop :=
  ∀ (s : State) (q : QueueId) (b : Byte), (s.fifo q).Inv (s.aw q) →
    ∃ t : State, exec (.aqPush q b) s = .next t ∧
      ((t.ret = .accepted true ∧
        (t.fifo q).contents (fifoArray q) (s.aw q) = (s.fifo q).contents (fifoArray q) (s.aw q) ++ [b]) ∨
      (t.ret = .accepted false ∧
        (t.fifo q).contents (fifoArray q) (s.aw q) = (s.fifo q).contents (fifoArray q) (s.aw q)))

/-- spec/20_memory.md R51, R52, spec/40_bytequeue.md R94: a pop returns the oldest pending byte and leaves the
others; on an empty view it leaves all. -/
def Obligations.PopTakesTheOldestPendingByte : Prop :=
  ∀ (s : State) (q : QueueId), (s.fifo q).Inv (s.aw q) →
    ∃ t : State, exec (.aqPop q) s = .next t ∧
      ((∃ b, t.ret = .dequeued (some b) ∧
        (s.fifo q).contents (fifoArray q) (s.aw q) = b :: (t.fifo q).contents (fifoArray q) (s.aw q)) ∨
      (t.ret = .dequeued none ∧ t.fifo q = s.fifo q))

/-- spec/20_memory.md R51, spec/40_bytequeue.md R85: the staging queue is first-in first-out. -/
def Obligations.StagingQueueIsFirstInFirstOut : Prop :=
  ∀ (s : State) (b : Byte), s.stq.Inv s.cfg.stDepth →
    (∃ t : State, exec (.stqEnq b) s = .next t ∧ t.stq.Inv s.cfg.stDepth ∧
      t.stq.contents s.cfg.stDepth =
        if s.stq.cnt = s.cfg.stDepth then s.stq.contents s.cfg.stDepth
        else s.stq.contents s.cfg.stDepth ++ [b]) ∧
    (∃ t : State, exec .stqDeq s = .next t ∧ t.stq.Inv s.cfg.stDepth ∧
      t.ret = .dequeued (s.stq.contents s.cfg.stDepth).head? ∧
      t.stq.contents s.cfg.stDepth = (s.stq.contents s.cfg.stDepth).tail)

/-! ### Whole-machine rules -/

/-- spec/40_bytequeue.md R101: only a receive edge writes the write side of `rxq`, only a core edge in PUMP its
read side, only a core edge in PARSE the write side of `txq`, only a transmit edge its read side; `Reset` apart. -/
def Obligations.EachQueueSideHasOneWriter : Prop :=
  ∀ (e : EnvStep) (s t : State), stepWith e s = .next t → e ≠ .rst →
    (t.rxq.wbin ≠ s.rxq.wbin ∨ t.rxq.mem ≠ s.rxq.mem → ∃ d l, e = .rx true d l) ∧
    (t.rxq.rbin ≠ s.rxq.rbin → (∃ l1 l2, e = .core false l1 l2) ∧ s.phase = .pump) ∧
    (t.txq.wbin ≠ s.txq.wbin ∨ t.txq.mem ≠ s.txq.mem →
      (∃ l1 l2, e = .core false l1 l2) ∧ s.phase = .parse) ∧
    (t.txq.rbin ≠ s.txq.rbin → ∃ l1 l2, e = .tx true l1 l2)

/-- spec/60_exceptions.md R204: the Error state is left in exactly three ways, each with `err_cause` cleared. -/
def Obligations.ErrorIsLeftInExactlyThreeWays : Prop :=
  ∀ (e : EnvStep) (s t : State), s.pstate = .error → stepWith e s = .next t →
    (t.pstate ≠ .error ↔
      e = .rst ∨ (∃ l1 l2, e = .core true l1 l2) ∨
      ((∃ l1 l2, e = .core false l1 l2) ∧ s.phase = .parse ∧ s.stq.cnt ≠ 0 ∧
        s.cfg.resyncOnColon = true ∧ s.stq.mem.read .stqMem s.stq.out = 0x3A)) ∧
    (t.pstate ≠ .error →
      (t.pstate = .init ∨ t.pstate = .byteCount) ∧ t.errCause = none ∧ t.pend = PendingRecord.initial ∧
      t.cksum = 0x00 ∧ t.page.addr = 0x0000 ∧ t.page.len = 0)

/-- spec/45_orchestrator.md R185, spec/43_parser.md R152, R154, R161: after a core edge `commit_valid` is 1 exactly
if the edge consumed the last checksum nibble of a record whose sum is zero, `eof_valid` exactly if it consumed the
second drained byte of an End-Of-File record; then the event was added, and no `Commit` or `Eof` otherwise. An edge
of another domain leaves both pulses as they are. -/
def Obligations.PulsesExactlyAtAGoodChecksumOrEndOfFile : Prop :=
  ∀ (s t : State) (clr l1 l2 : Bool) (b : Byte), stepWith (.core clr l1 l2) s = .next t →
    b = s.stq.mem.read .stqMem s.stq.out →
    (t.commitValid = true ↔
      clr = false ∧ s.phase = .parse ∧ s.stq.cnt ≠ 0 ∧ s.pstate = .checksum ∧ isHex b = true ∧
      s.pend.nibPhase = true ∧ s.cksum + (s.pend.acc.extractLsb' 4 4 ++ nibbleOf b) = 0x00) ∧
    (t.eofValid = true ↔
      clr = false ∧ s.phase = .parse ∧ s.stq.cnt ≠ 0 ∧ s.pstate = .endState ∧ s.pend.ckRem = 1) ∧
    (t.commitValid = true → t.trace =
      .commit s.page.addr ((List.range s.page.len).map (s.page.data.read .pgData)) s.page.len :: s.trace) ∧
    (t.eofValid = true → t.trace = .eof :: (diagPush s.cfg.diagEof s).trace) ∧
    (∀ (v l : Bool) (d : Byte) (u : State), stepWith (.rx v d l) s = .next u →
      u.commitValid = s.commitValid ∧ u.eofValid = s.eofValid) ∧
    (∀ (r l l' : Bool) (u : State), stepWith (.tx r l l') s = .next u →
      u.commitValid = s.commitValid ∧ u.eofValid = s.eofValid) ∧
    (t.commitValid = false → t.eofValid = false →
      t.trace = s.trace ∨ ∃ q d, t.trace = .drop q d :: s.trace ∨ t.trace = .dropStaging d :: s.trace)

/-- spec/44_page_checksum.md R177, spec/20_memory.md R58: between records and in Error the page stays readable
until a `:` starts a record, the parser is cleared, or the block is reset. -/
def Obligations.PageIsHeldUntilTheNextRecord : Prop :=
  ∀ (e : EnvStep) (s t : State), s.pstate = .init ∨ s.pstate = .error → stepWith e s = .next t →
    t.page ≠ s.page →
      e = .rst ∨ (∃ l1 l2, e = .core true l1 l2) ∨
      ((∃ l1 l2, e = .core false l1 l2) ∧ s.phase = .parse ∧ s.stq.cnt ≠ 0 ∧
        s.stq.mem.read .stqMem s.stq.out = 0x3A ∧ (s.pstate = .error → s.cfg.resyncOnColon = true))

/-- spec/70_reset_and_hazards.md R238, with the premise that no sample is pending, which the rule leaves out
(log 18): an idle edge of a quiet block changes nothing but the phase, which goes round; and after the state at which
an execution over a finite input ends, as long as only idle edges follow, nothing changes but the phase. -/
def Obligations.FinishedRunOnlyCyclesThePhase : Prop :=
  (∀ (e : EnvStep) (s : State), s.Inv → s.Quiet → s.NothingFresh → isIdleInput e = true →
    stepWith e s = .next { s with phase :=
      (match e with
      | .core _ _ _ => (match s.phase with | .pump => .parse | .parse => .arm | .arm => .pump)
      | .rx _ _ _ => s.phase
      | .tx _ _ _ => s.phase
      | .rst => s.phase) }) ∧
  (∀ (x : Execution) (input : List Byte) (n : Nat), x.EndsAt input n → (x.states n).Inv →
    (x.states n).NothingFresh → (∀ m, n ≤ m → isIdleInput (x.choices m) = true) →
    ∀ m, n ≤ m → x.offered m = input ∧ ∃ p : Phase, x.states m = { x.states n with phase := p })

/-! ### Records (spec/30_encoding.md R60, R61, spec/44_page_checksum.md R170) -/

/-- spec/44_page_checksum.md R170: a Data record, its hex digits in either case, read from Init, is accepted and
its page committed once if the sum of all its bytes is zero modulo 256, and otherwise ends in Error with cause
Checksum and no commit. -/
def Obligations.DataRecordIsAcceptedIffItsSumIsZero : Prop :=
  ∀ (s : State) (text data : List Byte) (n ah al cc : Byte),
    s.pstate = .init → data.length = n.toNat →
    hexBytes text = some (n :: ah :: al :: 0x00 :: (data ++ [cc])) →
    (n + ah + al + 0x00 + byteSum data + cc = 0x00 →
      ∃ t : State, parseText (0x3A :: text) s = .next t ∧ t.pstate = .init ∧ t.errCause = none ∧
        t.commitValid = true ∧ t.trace = .commit (ah ++ al) data n.toNat :: s.trace ∧ t.txq = s.txq) ∧
    (n + ah + al + 0x00 + byteSum data + cc ≠ 0x00 →
      ∃ t : State, parseText (0x3A :: text) s = .next t ∧ t.pstate = .error ∧ t.errCause = some .checksum ∧
        t.commitValid = s.commitValid ∧ t.trace = (diagPush s.cfg.diagChecksum s).trace ∧
        t.txq = (diagPush s.cfg.diagChecksum s).txq)

/-- spec/30_encoding.md R61, spec/43_parser.md R147, R154: a record of type 01 ends after any two more bytes with
the notification, the diagnostic `DIAG_EOF` and nothing committed, whatever its length and address; one of another
type than 00 and 01 ends in Error at its type byte, with the diagnostic `DIAG_RECTYPE`. -/
def Obligations.RecordTypeDecidesHowTheRecordEnds : Prop :=
  ∀ (s : State) (text : List Byte) (n ah al ty x y : Byte),
    s.pstate = .init → hexBytes text = some [n, ah, al, ty] →
    (ty = 0x01 → ∃ t : State, parseText (0x3A :: text ++ [x, y]) s = .next t ∧ t.pstate = .init ∧
      t.eofValid = true ∧ t.commitValid = s.commitValid ∧ t.errCause = none ∧ t.cksum = n + ah + al + ty ∧
      t.page.addr = ah ++ al ∧ t.page.len = 0 ∧ t.trace = .eof :: (diagPush s.cfg.diagEof s).trace ∧
      t.txq = (diagPush s.cfg.diagEof s).txq) ∧
    (ty ≠ 0x00 → ty ≠ 0x01 → ∃ t : State, parseText (0x3A :: text) s = .next t ∧ t.pstate = .error ∧
      t.errCause = some .recType ∧ t.pend.recType = ty ∧ t.commitValid = s.commitValid ∧
      t.trace = (diagPush s.cfg.diagRectype s).trace ∧ t.txq = (diagPush s.cfg.diagRectype s).txq)

/-! ### The invariant of the block -/

/-- spec/10_state.md R12, R19, spec/20_memory.md R53, spec/40_bytequeue.md R85, R97, spec/41_transport.md R120,
spec/43_parser.md R158: every step, whatever the environment chooses, keeps the invariant. -/
def Obligations.EveryStepKeepsTheInvariant : Prop :=
  ∀ s t : State, s.Inv → step s = .next t → t.Inv

/-- The state after reset satisfies the invariant. -/
def Obligations.AfterResetTheInvariantHolds : Prop := State.reset.Inv

/-- spec/60_exceptions.md R202 ("no crash/halt"), spec/42_relay.md R127, spec/44_page_checksum.md R175: from a state of
the invariant no step stops, the phase moves as spec/45_orchestrator.md R186 allows, and the parameters stay
(spec/00_scope.md R2). -/
def Obligations.NoStepStopsInTheInvariant : Prop :=
  ∀ (e : EnvStep) (s : State), s.Inv → ∃ t : State, stepWith e s = .next t ∧ t.cfg = s.cfg ∧
    (t.phase = s.phase ∨ (s.phase = .pump ∧ t.phase = .parse) ∨ (s.phase = .parse ∧ t.phase = .arm) ∨
      (s.phase = .arm ∧ t.phase = .pump) ∨ e = .rst)
end

