-- ==== Sys2Proof/Laws/Memory.lean ====
section
/-! SUPPORT. The laws of the byte arrays: a read after a write, and that every operation keeps the canonical form. -/

namespace Sys2Proof.Machine

@[simp] theorem lookupCell_insertCell_same (cs : List Host.Cell) (a : Nat) (b : Byte) :
    lookupCell (insertCell a b cs) a = some b := by
  induction cs with
  | nil => simp [insertCell, lookupCell]
  | cons c rest ih =>
    obtain ⟨k, v⟩ := c
    simp only [insertCell]
    split
    · simp [lookupCell]
    · split
      · simp [lookupCell]
      · simp [lookupCell, ih, Ne.symm ‹¬a = k›]

theorem lookupCell_insertCell_other (cs : List Host.Cell) {a i : Nat} (b : Byte) (h : i ≠ a) :
    lookupCell (insertCell a b cs) i = lookupCell cs i := by
  induction cs with
  | nil => simp [insertCell, lookupCell, Ne.symm h]
  | cons c rest ih =>
    obtain ⟨k, v⟩ := c
    simp only [insertCell]
    split
    · simp [lookupCell, Ne.symm h]
    · split
      · subst_vars; simp [lookupCell, Ne.symm h]
      · simp [lookupCell, ih]

theorem risingBelow_mono {size lo lo' : Nat} {cs : List Host.Cell} (hle : lo' ≤ lo)
    (h : risingBelow size lo cs = true) : risingBelow size lo' cs = true := by
  cases cs with
  | nil => rfl
  | cons c rest =>
    simp only [risingBelow, Bool.and_eq_true, decide_eq_true_eq] at *
    exact ⟨⟨by omega, h.1.2⟩, h.2⟩

theorem lookupCell_eq_none_of_rising {size lo a : Nat} {cs : List Host.Cell} (ha : a < lo)
    (h : risingBelow size lo cs = true) : lookupCell cs a = none := by
  induction cs generalizing lo with
  | nil => rfl
  | cons c rest ih =>
    obtain ⟨k, v⟩ := c
    simp only [risingBelow, Bool.and_eq_true, decide_eq_true_eq] at h
    rw [lookupCell, if_neg (by omega)]
    exact ih (lo := k + 1) (by omega) h.2

theorem lookupCell_eraseCell_same {size lo : Nat} (cs : List Host.Cell) (a : Nat)
    (h : risingBelow size lo cs = true) : lookupCell (eraseCell a cs) a = none := by
  induction cs generalizing lo with
  | nil => rfl
  | cons c rest ih =>
    obtain ⟨k, v⟩ := c
    simp only [risingBelow, Bool.and_eq_true, decide_eq_true_eq] at h
    rw [eraseCell]
    split
    · exact lookupCell_eq_none_of_rising (lo := k + 1) (by omega) h.2
    · rw [lookupCell, if_neg (by assumption), ih h.2]

theorem lookupCell_eraseCell_other (cs : List Host.Cell) {a i : Nat} (h : i ≠ a) :
    lookupCell (eraseCell a cs) i = lookupCell cs i := by
  induction cs with
  | nil => rfl
  | cons c rest ih =>
    obtain ⟨k, v⟩ := c
    rw [eraseCell]
    split
    · subst_vars; rw [lookupCell, if_neg (Ne.symm h)]
    · rw [lookupCell, lookupCell, ih]

/-- A read after a write to the same index gives the byte written. -/
theorem Memory.read_write_same {size : Nat} (id : ArrayId) (m : Memory) (a : Nat) (b : Byte)
    (h : m.wf size = true) : (m.write a b).read id a = b := by
  simp only [Memory.wf, Bool.and_eq_true] at h
  by_cases hz : m.fill = .zero ∧ b = 0x00
  · simp [Memory.write, hz, Memory.read, lookupCell_eraseCell_same _ _ h.1, fillByte]
  · rw [Memory.write, if_neg hz]
    simp [Memory.read]

/-- A write leaves every other index alone. -/
theorem Memory.read_write_other (id : ArrayId) (m : Memory) {a i : Nat} (b : Byte) (h : i ≠ a) :
    (m.write a b).read id i = m.read id i := by
  by_cases hz : m.fill = .zero ∧ b = 0x00
  · simp [Memory.write, hz, Memory.read, lookupCell_eraseCell_other _ h]
  · rw [Memory.write, if_neg hz]
    simp [Memory.read, lookupCell_insertCell_other _ b h]

/-- A cleared array reads 0x00 everywhere. -/
@[simp] theorem Memory.read_cleared (id : ArrayId) (a : Nat) : Memory.cleared.read id a = 0x00 := rfl

theorem risingBelow_insertCell {size lo a : Nat} {b : Byte} {cs : List Host.Cell} (ha : a < size) (hlo : lo ≤ a)
    (h : risingBelow size lo cs = true) : risingBelow size lo (insertCell a b cs) = true := by
  induction cs generalizing lo with
  | nil => simp [insertCell, risingBelow, ha, hlo]
  | cons c rest ih =>
    obtain ⟨k, v⟩ := c
    simp only [risingBelow, Bool.and_eq_true, decide_eq_true_eq] at h
    rw [insertCell]
    split
    · simp only [risingBelow, Bool.and_eq_true, decide_eq_true_eq]
      exact ⟨⟨hlo, ha⟩, ⟨by omega, h.1.2⟩, h.2⟩
    · split
      · subst_vars; simp only [risingBelow, Bool.and_eq_true, decide_eq_true_eq]; exact h
      · simp only [risingBelow, Bool.and_eq_true, decide_eq_true_eq]
        exact ⟨h.1, ih (by omega) h.2⟩

theorem risingBelow_eraseCell {size lo a : Nat} {cs : List Host.Cell}
    (h : risingBelow size lo cs = true) : risingBelow size lo (eraseCell a cs) = true := by
  induction cs generalizing lo with
  | nil => rfl
  | cons c rest ih =>
    obtain ⟨k, v⟩ := c
    simp only [risingBelow, Bool.and_eq_true, decide_eq_true_eq] at h
    rw [eraseCell]
    split
    · exact risingBelow_mono (by omega) h.2
    · simp only [risingBelow, Bool.and_eq_true, decide_eq_true_eq]
      exact ⟨h.1, ih h.2⟩

theorem mem_insertCell {a : Nat} {b : Byte} {cs : List Host.Cell} {c : Host.Cell} (h : c ∈ insertCell a b cs) :
    c = (a, b) ∨ c ∈ cs := by
  induction cs with
  | nil => simpa [insertCell] using h
  | cons d rest ih =>
    obtain ⟨k, v⟩ := d
    rw [insertCell] at h
    split at h
    · simpa using h
    · split at h
      · rcases List.mem_cons.1 h with h | h
        · exact .inl h
        · exact .inr (List.mem_cons_of_mem _ h)
      · rcases List.mem_cons.1 h with h | h
        · exact .inr (by simp [h])
        · exact (ih h).imp_right (List.mem_cons_of_mem _)

theorem mem_eraseCell {a : Nat} {cs : List Host.Cell} {c : Host.Cell} (h : c ∈ eraseCell a cs) : c ∈ cs := by
  induction cs with
  | nil => simp [eraseCell] at h
  | cons d rest ih =>
    obtain ⟨k, v⟩ := d
    rw [eraseCell] at h
    split at h
    · exact List.mem_cons_of_mem _ h
    · rcases List.mem_cons.1 h with h | h
      · simp [h]
      · exact List.mem_cons_of_mem _ (ih h)

/-- A write within the array keeps the canonical form. -/
theorem Memory.write_wf {size a : Nat} {b : Byte} {m : Memory} (ha : a < size) (h : m.wf size = true) :
    (m.write a b).wf size = true := by
  simp only [Memory.wf, Bool.and_eq_true, Bool.or_eq_true, beq_iff_eq, List.all_eq_true, bne_iff_ne] at *
  rw [Memory.write]
  split
  · exact ⟨risingBelow_eraseCell h.1, h.2.imp_right fun hz c hc => hz c (mem_eraseCell hc)⟩
  · rename_i hz
    refine ⟨risingBelow_insertCell ha (Nat.zero_le _) h.1, ?_⟩
    cases hf : m.fill with
    | powerOn => exact .inl rfl
    | zero =>
      refine .inr fun c hc => ?_
      rcases mem_insertCell hc with rfl | hc
      · exact fun hb => hz ⟨hf, hb⟩
      · exact (h.2.resolve_left (by simp [hf])) c hc

/-- Clearing gives the canonical form. -/
@[simp] theorem Memory.cleared_wf (size : Nat) : Memory.cleared.wf size = true := rfl

/-- An unwritten array has the canonical form. -/
@[simp] theorem Memory.unwritten_wf (size : Nat) : Memory.unwritten.wf size = true := rfl

/-- The reset state's arrays have the canonical form. -/
theorem reset_arrays_wf : State.reset.rxq.mem.wf (2 ^ State.reset.cfg.rxAw) = true ∧
    State.reset.txq.mem.wf (2 ^ State.reset.cfg.txAw) = true ∧
    State.reset.stq.mem.wf State.reset.cfg.stDepth = true ∧
    State.reset.page.data.wf State.reset.cfg.pageSize = true := ⟨rfl, rfl, rfl, rfl⟩

end Sys2Proof.Machine
end

