-- ==== Sys2Proof/Laws/State.lean ====
section
/-! SUPPORT. One lemma for each field and each named update of State: what the update leaves there. -/

namespace Sys2Proof.Machine.State

@[simp] theorem setRxq_cfg (s : State) (q : AsyncFifo) : (s.setRxq q).cfg = s.cfg := rfl
@[simp] theorem setRxq_rxq (s : State) (q : AsyncFifo) : (s.setRxq q).rxq = q := rfl
@[simp] theorem setRxq_txq (s : State) (q : AsyncFifo) : (s.setRxq q).txq = s.txq := rfl
@[simp] theorem setRxq_stq (s : State) (q : AsyncFifo) : (s.setRxq q).stq = s.stq := rfl
@[simp] theorem setRxq_tr (s : State) (q : AsyncFifo) : (s.setRxq q).tr = s.tr := rfl
@[simp] theorem setRxq_phase (s : State) (q : AsyncFifo) : (s.setRxq q).phase = s.phase := rfl
@[simp] theorem setRxq_pstate (s : State) (q : AsyncFifo) : (s.setRxq q).pstate = s.pstate := rfl
@[simp] theorem setRxq_pend (s : State) (q : AsyncFifo) : (s.setRxq q).pend = s.pend := rfl
@[simp] theorem setRxq_cksum (s : State) (q : AsyncFifo) : (s.setRxq q).cksum = s.cksum := rfl
@[simp] theorem setRxq_page (s : State) (q : AsyncFifo) : (s.setRxq q).page = s.page := rfl
@[simp] theorem setRxq_errCause (s : State) (q : AsyncFifo) : (s.setRxq q).errCause = s.errCause := rfl
@[simp] theorem setRxq_commitValid (s : State) (q : AsyncFifo) : (s.setRxq q).commitValid = s.commitValid := rfl
@[simp] theorem setRxq_eofValid (s : State) (q : AsyncFifo) : (s.setRxq q).eofValid = s.eofValid := rfl
@[simp] theorem setRxq_trace (s : State) (q : AsyncFifo) : (s.setRxq q).trace = s.trace := rfl
@[simp] theorem setRxq_ret (s : State) (q : AsyncFifo) : (s.setRxq q).ret = s.ret := rfl
@[simp] theorem setRxq_pending (s : State) (q : AsyncFifo) : (s.setRxq q).pending = s.pending := rfl
@[simp] theorem setRxq_envTick (s : State) (q : AsyncFifo) : (s.setRxq q).envTick = s.envTick := rfl
@[simp] theorem setRxq_draws (s : State) (q : AsyncFifo) : (s.setRxq q).draws = s.draws := rfl

@[simp] theorem setTxq_cfg (s : State) (q : AsyncFifo) : (s.setTxq q).cfg = s.cfg := rfl
@[simp] theorem setTxq_rxq (s : State) (q : AsyncFifo) : (s.setTxq q).rxq = s.rxq := rfl
@[simp] theorem setTxq_txq (s : State) (q : AsyncFifo) : (s.setTxq q).txq = q := rfl
@[simp] theorem setTxq_stq (s : State) (q : AsyncFifo) : (s.setTxq q).stq = s.stq := rfl
@[simp] theorem setTxq_tr (s : State) (q : AsyncFifo) : (s.setTxq q).tr = s.tr := rfl
@[simp] theorem setTxq_phase (s : State) (q : AsyncFifo) : (s.setTxq q).phase = s.phase := rfl
@[simp] theorem setTxq_pstate (s : State) (q : AsyncFifo) : (s.setTxq q).pstate = s.pstate := rfl
@[simp] theorem setTxq_pend (s : State) (q : AsyncFifo) : (s.setTxq q).pend = s.pend := rfl
@[simp] theorem setTxq_cksum (s : State) (q : AsyncFifo) : (s.setTxq q).cksum = s.cksum := rfl
@[simp] theorem setTxq_page (s : State) (q : AsyncFifo) : (s.setTxq q).page = s.page := rfl
@[simp] theorem setTxq_errCause (s : State) (q : AsyncFifo) : (s.setTxq q).errCause = s.errCause := rfl
@[simp] theorem setTxq_commitValid (s : State) (q : AsyncFifo) : (s.setTxq q).commitValid = s.commitValid := rfl
@[simp] theorem setTxq_eofValid (s : State) (q : AsyncFifo) : (s.setTxq q).eofValid = s.eofValid := rfl
@[simp] theorem setTxq_trace (s : State) (q : AsyncFifo) : (s.setTxq q).trace = s.trace := rfl
@[simp] theorem setTxq_ret (s : State) (q : AsyncFifo) : (s.setTxq q).ret = s.ret := rfl
@[simp] theorem setTxq_pending (s : State) (q : AsyncFifo) : (s.setTxq q).pending = s.pending := rfl
@[simp] theorem setTxq_envTick (s : State) (q : AsyncFifo) : (s.setTxq q).envTick = s.envTick := rfl
@[simp] theorem setTxq_draws (s : State) (q : AsyncFifo) : (s.setTxq q).draws = s.draws := rfl

@[simp] theorem setStq_cfg (s : State) (q : StagingQueue) : (s.setStq q).cfg = s.cfg := rfl
@[simp] theorem setStq_rxq (s : State) (q : StagingQueue) : (s.setStq q).rxq = s.rxq := rfl
@[simp] theorem setStq_txq (s : State) (q : StagingQueue) : (s.setStq q).txq = s.txq := rfl
@[simp] theorem setStq_stq (s : State) (q : StagingQueue) : (s.setStq q).stq = q := rfl
@[simp] theorem setStq_tr (s : State) (q : StagingQueue) : (s.setStq q).tr = s.tr := rfl
@[simp] theorem setStq_phase (s : State) (q : StagingQueue) : (s.setStq q).phase = s.phase := rfl
@[simp] theorem setStq_pstate (s : State) (q : StagingQueue) : (s.setStq q).pstate = s.pstate := rfl
@[simp] theorem setStq_pend (s : State) (q : StagingQueue) : (s.setStq q).pend = s.pend := rfl
@[simp] theorem setStq_cksum (s : State) (q : StagingQueue) : (s.setStq q).cksum = s.cksum := rfl
@[simp] theorem setStq_page (s : State) (q : StagingQueue) : (s.setStq q).page = s.page := rfl
@[simp] theorem setStq_errCause (s : State) (q : StagingQueue) : (s.setStq q).errCause = s.errCause := rfl
@[simp] theorem setStq_commitValid (s : State) (q : StagingQueue) : (s.setStq q).commitValid = s.commitValid := rfl
@[simp] theorem setStq_eofValid (s : State) (q : StagingQueue) : (s.setStq q).eofValid = s.eofValid := rfl
@[simp] theorem setStq_trace (s : State) (q : StagingQueue) : (s.setStq q).trace = s.trace := rfl
@[simp] theorem setStq_ret (s : State) (q : StagingQueue) : (s.setStq q).ret = s.ret := rfl
@[simp] theorem setStq_pending (s : State) (q : StagingQueue) : (s.setStq q).pending = s.pending := rfl
@[simp] theorem setStq_envTick (s : State) (q : StagingQueue) : (s.setStq q).envTick = s.envTick := rfl
@[simp] theorem setStq_draws (s : State) (q : StagingQueue) : (s.setStq q).draws = s.draws := rfl

@[simp] theorem setTr_cfg (s : State) (t : Transport) : (s.setTr t).cfg = s.cfg := rfl
@[simp] theorem setTr_rxq (s : State) (t : Transport) : (s.setTr t).rxq = s.rxq := rfl
@[simp] theorem setTr_txq (s : State) (t : Transport) : (s.setTr t).txq = s.txq := rfl
@[simp] theorem setTr_stq (s : State) (t : Transport) : (s.setTr t).stq = s.stq := rfl
@[simp] theorem setTr_tr (s : State) (t : Transport) : (s.setTr t).tr = t := rfl
@[simp] theorem setTr_phase (s : State) (t : Transport) : (s.setTr t).phase = s.phase := rfl
@[simp] theorem setTr_pstate (s : State) (t : Transport) : (s.setTr t).pstate = s.pstate := rfl
@[simp] theorem setTr_pend (s : State) (t : Transport) : (s.setTr t).pend = s.pend := rfl
@[simp] theorem setTr_cksum (s : State) (t : Transport) : (s.setTr t).cksum = s.cksum := rfl
@[simp] theorem setTr_page (s : State) (t : Transport) : (s.setTr t).page = s.page := rfl
@[simp] theorem setTr_errCause (s : State) (t : Transport) : (s.setTr t).errCause = s.errCause := rfl
@[simp] theorem setTr_commitValid (s : State) (t : Transport) : (s.setTr t).commitValid = s.commitValid := rfl
@[simp] theorem setTr_eofValid (s : State) (t : Transport) : (s.setTr t).eofValid = s.eofValid := rfl
@[simp] theorem setTr_trace (s : State) (t : Transport) : (s.setTr t).trace = s.trace := rfl
@[simp] theorem setTr_ret (s : State) (t : Transport) : (s.setTr t).ret = s.ret := rfl
@[simp] theorem setTr_pending (s : State) (t : Transport) : (s.setTr t).pending = s.pending := rfl
@[simp] theorem setTr_envTick (s : State) (t : Transport) : (s.setTr t).envTick = s.envTick := rfl
@[simp] theorem setTr_draws (s : State) (t : Transport) : (s.setTr t).draws = s.draws := rfl

@[simp] theorem setPhase_cfg (s : State) (p : Phase) : (s.setPhase p).cfg = s.cfg := rfl
@[simp] theorem setPhase_rxq (s : State) (p : Phase) : (s.setPhase p).rxq = s.rxq := rfl
@[simp] theorem setPhase_txq (s : State) (p : Phase) : (s.setPhase p).txq = s.txq := rfl
@[simp] theorem setPhase_stq (s : State) (p : Phase) : (s.setPhase p).stq = s.stq := rfl
@[simp] theorem setPhase_tr (s : State) (p : Phase) : (s.setPhase p).tr = s.tr := rfl
@[simp] theorem setPhase_phase (s : State) (p : Phase) : (s.setPhase p).phase = p := rfl
@[simp] theorem setPhase_pstate (s : State) (p : Phase) : (s.setPhase p).pstate = s.pstate := rfl
@[simp] theorem setPhase_pend (s : State) (p : Phase) : (s.setPhase p).pend = s.pend := rfl
@[simp] theorem setPhase_cksum (s : State) (p : Phase) : (s.setPhase p).cksum = s.cksum := rfl
@[simp] theorem setPhase_page (s : State) (p : Phase) : (s.setPhase p).page = s.page := rfl
@[simp] theorem setPhase_errCause (s : State) (p : Phase) : (s.setPhase p).errCause = s.errCause := rfl
@[simp] theorem setPhase_commitValid (s : State) (p : Phase) : (s.setPhase p).commitValid = s.commitValid := rfl
@[simp] theorem setPhase_eofValid (s : State) (p : Phase) : (s.setPhase p).eofValid = s.eofValid := rfl
@[simp] theorem setPhase_trace (s : State) (p : Phase) : (s.setPhase p).trace = s.trace := rfl
@[simp] theorem setPhase_ret (s : State) (p : Phase) : (s.setPhase p).ret = s.ret := rfl
@[simp] theorem setPhase_pending (s : State) (p : Phase) : (s.setPhase p).pending = s.pending := rfl
@[simp] theorem setPhase_envTick (s : State) (p : Phase) : (s.setPhase p).envTick = s.envTick := rfl
@[simp] theorem setPhase_draws (s : State) (p : Phase) : (s.setPhase p).draws = s.draws := rfl

@[simp] theorem setPstate_cfg (s : State) (p : PState) : (s.setPstate p).cfg = s.cfg := rfl
@[simp] theorem setPstate_rxq (s : State) (p : PState) : (s.setPstate p).rxq = s.rxq := rfl
@[simp] theorem setPstate_txq (s : State) (p : PState) : (s.setPstate p).txq = s.txq := rfl
@[simp] theorem setPstate_stq (s : State) (p : PState) : (s.setPstate p).stq = s.stq := rfl
@[simp] theorem setPstate_tr (s : State) (p : PState) : (s.setPstate p).tr = s.tr := rfl
@[simp] theorem setPstate_phase (s : State) (p : PState) : (s.setPstate p).phase = s.phase := rfl
@[simp] theorem setPstate_pstate (s : State) (p : PState) : (s.setPstate p).pstate = p := rfl
@[simp] theorem setPstate_pend (s : State) (p : PState) : (s.setPstate p).pend = s.pend := rfl
@[simp] theorem setPstate_cksum (s : State) (p : PState) : (s.setPstate p).cksum = s.cksum := rfl
@[simp] theorem setPstate_page (s : State) (p : PState) : (s.setPstate p).page = s.page := rfl
@[simp] theorem setPstate_errCause (s : State) (p : PState) : (s.setPstate p).errCause = s.errCause := rfl
@[simp] theorem setPstate_commitValid (s : State) (p : PState) : (s.setPstate p).commitValid = s.commitValid := rfl
@[simp] theorem setPstate_eofValid (s : State) (p : PState) : (s.setPstate p).eofValid = s.eofValid := rfl
@[simp] theorem setPstate_trace (s : State) (p : PState) : (s.setPstate p).trace = s.trace := rfl
@[simp] theorem setPstate_ret (s : State) (p : PState) : (s.setPstate p).ret = s.ret := rfl
@[simp] theorem setPstate_pending (s : State) (p : PState) : (s.setPstate p).pending = s.pending := rfl
@[simp] theorem setPstate_envTick (s : State) (p : PState) : (s.setPstate p).envTick = s.envTick := rfl
@[simp] theorem setPstate_draws (s : State) (p : PState) : (s.setPstate p).draws = s.draws := rfl

@[simp] theorem setPend_cfg (s : State) (p : PendingRecord) : (s.setPend p).cfg = s.cfg := rfl
@[simp] theorem setPend_rxq (s : State) (p : PendingRecord) : (s.setPend p).rxq = s.rxq := rfl
@[simp] theorem setPend_txq (s : State) (p : PendingRecord) : (s.setPend p).txq = s.txq := rfl
@[simp] theorem setPend_stq (s : State) (p : PendingRecord) : (s.setPend p).stq = s.stq := rfl
@[simp] theorem setPend_tr (s : State) (p : PendingRecord) : (s.setPend p).tr = s.tr := rfl
@[simp] theorem setPend_phase (s : State) (p : PendingRecord) : (s.setPend p).phase = s.phase := rfl
@[simp] theorem setPend_pstate (s : State) (p : PendingRecord) : (s.setPend p).pstate = s.pstate := rfl
@[simp] theorem setPend_pend (s : State) (p : PendingRecord) : (s.setPend p).pend = p := rfl
@[simp] theorem setPend_cksum (s : State) (p : PendingRecord) : (s.setPend p).cksum = s.cksum := rfl
@[simp] theorem setPend_page (s : State) (p : PendingRecord) : (s.setPend p).page = s.page := rfl
@[simp] theorem setPend_errCause (s : State) (p : PendingRecord) : (s.setPend p).errCause = s.errCause := rfl
@[simp] theorem setPend_commitValid (s : State) (p : PendingRecord) : (s.setPend p).commitValid = s.commitValid := rfl
@[simp] theorem setPend_eofValid (s : State) (p : PendingRecord) : (s.setPend p).eofValid = s.eofValid := rfl
@[simp] theorem setPend_trace (s : State) (p : PendingRecord) : (s.setPend p).trace = s.trace := rfl
@[simp] theorem setPend_ret (s : State) (p : PendingRecord) : (s.setPend p).ret = s.ret := rfl
@[simp] theorem setPend_pending (s : State) (p : PendingRecord) : (s.setPend p).pending = s.pending := rfl
@[simp] theorem setPend_envTick (s : State) (p : PendingRecord) : (s.setPend p).envTick = s.envTick := rfl
@[simp] theorem setPend_draws (s : State) (p : PendingRecord) : (s.setPend p).draws = s.draws := rfl

@[simp] theorem setCksum_cfg (s : State) (c : Byte) : (s.setCksum c).cfg = s.cfg := rfl
@[simp] theorem setCksum_rxq (s : State) (c : Byte) : (s.setCksum c).rxq = s.rxq := rfl
@[simp] theorem setCksum_txq (s : State) (c : Byte) : (s.setCksum c).txq = s.txq := rfl
@[simp] theorem setCksum_stq (s : State) (c : Byte) : (s.setCksum c).stq = s.stq := rfl
@[simp] theorem setCksum_tr (s : State) (c : Byte) : (s.setCksum c).tr = s.tr := rfl
@[simp] theorem setCksum_phase (s : State) (c : Byte) : (s.setCksum c).phase = s.phase := rfl
@[simp] theorem setCksum_pstate (s : State) (c : Byte) : (s.setCksum c).pstate = s.pstate := rfl
@[simp] theorem setCksum_pend (s : State) (c : Byte) : (s.setCksum c).pend = s.pend := rfl
@[simp] theorem setCksum_cksum (s : State) (c : Byte) : (s.setCksum c).cksum = c := rfl
@[simp] theorem setCksum_page (s : State) (c : Byte) : (s.setCksum c).page = s.page := rfl
@[simp] theorem setCksum_errCause (s : State) (c : Byte) : (s.setCksum c).errCause = s.errCause := rfl
@[simp] theorem setCksum_commitValid (s : State) (c : Byte) : (s.setCksum c).commitValid = s.commitValid := rfl
@[simp] theorem setCksum_eofValid (s : State) (c : Byte) : (s.setCksum c).eofValid = s.eofValid := rfl
@[simp] theorem setCksum_trace (s : State) (c : Byte) : (s.setCksum c).trace = s.trace := rfl
@[simp] theorem setCksum_ret (s : State) (c : Byte) : (s.setCksum c).ret = s.ret := rfl
@[simp] theorem setCksum_pending (s : State) (c : Byte) : (s.setCksum c).pending = s.pending := rfl
@[simp] theorem setCksum_envTick (s : State) (c : Byte) : (s.setCksum c).envTick = s.envTick := rfl
@[simp] theorem setCksum_draws (s : State) (c : Byte) : (s.setCksum c).draws = s.draws := rfl

@[simp] theorem setPage_cfg (s : State) (p : Page) : (s.setPage p).cfg = s.cfg := rfl
@[simp] theorem setPage_rxq (s : State) (p : Page) : (s.setPage p).rxq = s.rxq := rfl
@[simp] theorem setPage_txq (s : State) (p : Page) : (s.setPage p).txq = s.txq := rfl
@[simp] theorem setPage_stq (s : State) (p : Page) : (s.setPage p).stq = s.stq := rfl
@[simp] theorem setPage_tr (s : State) (p : Page) : (s.setPage p).tr = s.tr := rfl
@[simp] theorem setPage_phase (s : State) (p : Page) : (s.setPage p).phase = s.phase := rfl
@[simp] theorem setPage_pstate (s : State) (p : Page) : (s.setPage p).pstate = s.pstate := rfl
@[simp] theorem setPage_pend (s : State) (p : Page) : (s.setPage p).pend = s.pend := rfl
@[simp] theorem setPage_cksum (s : State) (p : Page) : (s.setPage p).cksum = s.cksum := rfl
@[simp] theorem setPage_page (s : State) (p : Page) : (s.setPage p).page = p := rfl
@[simp] theorem setPage_errCause (s : State) (p : Page) : (s.setPage p).errCause = s.errCause := rfl
@[simp] theorem setPage_commitValid (s : State) (p : Page) : (s.setPage p).commitValid = s.commitValid := rfl
@[simp] theorem setPage_eofValid (s : State) (p : Page) : (s.setPage p).eofValid = s.eofValid := rfl
@[simp] theorem setPage_trace (s : State) (p : Page) : (s.setPage p).trace = s.trace := rfl
@[simp] theorem setPage_ret (s : State) (p : Page) : (s.setPage p).ret = s.ret := rfl
@[simp] theorem setPage_pending (s : State) (p : Page) : (s.setPage p).pending = s.pending := rfl
@[simp] theorem setPage_envTick (s : State) (p : Page) : (s.setPage p).envTick = s.envTick := rfl
@[simp] theorem setPage_draws (s : State) (p : Page) : (s.setPage p).draws = s.draws := rfl

@[simp] theorem setErrCause_cfg (s : State) (c : Option Cause) : (s.setErrCause c).cfg = s.cfg := rfl
@[simp] theorem setErrCause_rxq (s : State) (c : Option Cause) : (s.setErrCause c).rxq = s.rxq := rfl
@[simp] theorem setErrCause_txq (s : State) (c : Option Cause) : (s.setErrCause c).txq = s.txq := rfl
@[simp] theorem setErrCause_stq (s : State) (c : Option Cause) : (s.setErrCause c).stq = s.stq := rfl
@[simp] theorem setErrCause_tr (s : State) (c : Option Cause) : (s.setErrCause c).tr = s.tr := rfl
@[simp] theorem setErrCause_phase (s : State) (c : Option Cause) : (s.setErrCause c).phase = s.phase := rfl
@[simp] theorem setErrCause_pstate (s : State) (c : Option Cause) : (s.setErrCause c).pstate = s.pstate := rfl
@[simp] theorem setErrCause_pend (s : State) (c : Option Cause) : (s.setErrCause c).pend = s.pend := rfl
@[simp] theorem setErrCause_cksum (s : State) (c : Option Cause) : (s.setErrCause c).cksum = s.cksum := rfl
@[simp] theorem setErrCause_page (s : State) (c : Option Cause) : (s.setErrCause c).page = s.page := rfl
@[simp] theorem setErrCause_errCause (s : State) (c : Option Cause) : (s.setErrCause c).errCause = c := rfl
@[simp] theorem setErrCause_commitValid (s : State) (c : Option Cause) : (s.setErrCause c).commitValid = s.commitValid := rfl
@[simp] theorem setErrCause_eofValid (s : State) (c : Option Cause) : (s.setErrCause c).eofValid = s.eofValid := rfl
@[simp] theorem setErrCause_trace (s : State) (c : Option Cause) : (s.setErrCause c).trace = s.trace := rfl
@[simp] theorem setErrCause_ret (s : State) (c : Option Cause) : (s.setErrCause c).ret = s.ret := rfl
@[simp] theorem setErrCause_pending (s : State) (c : Option Cause) : (s.setErrCause c).pending = s.pending := rfl
@[simp] theorem setErrCause_envTick (s : State) (c : Option Cause) : (s.setErrCause c).envTick = s.envTick := rfl
@[simp] theorem setErrCause_draws (s : State) (c : Option Cause) : (s.setErrCause c).draws = s.draws := rfl

@[simp] theorem setCommitValid_cfg (s : State) (b : Bool) : (s.setCommitValid b).cfg = s.cfg := rfl
@[simp] theorem setCommitValid_rxq (s : State) (b : Bool) : (s.setCommitValid b).rxq = s.rxq := rfl
@[simp] theorem setCommitValid_txq (s : State) (b : Bool) : (s.setCommitValid b).txq = s.txq := rfl
@[simp] theorem setCommitValid_stq (s : State) (b : Bool) : (s.setCommitValid b).stq = s.stq := rfl
@[simp] theorem setCommitValid_tr (s : State) (b : Bool) : (s.setCommitValid b).tr = s.tr := rfl
@[simp] theorem setCommitValid_phase (s : State) (b : Bool) : (s.setCommitValid b).phase = s.phase := rfl
@[simp] theorem setCommitValid_pstate (s : State) (b : Bool) : (s.setCommitValid b).pstate = s.pstate := rfl
@[simp] theorem setCommitValid_pend (s : State) (b : Bool) : (s.setCommitValid b).pend = s.pend := rfl
@[simp] theorem setCommitValid_cksum (s : State) (b : Bool) : (s.setCommitValid b).cksum = s.cksum := rfl
@[simp] theorem setCommitValid_page (s : State) (b : Bool) : (s.setCommitValid b).page = s.page := rfl
@[simp] theorem setCommitValid_errCause (s : State) (b : Bool) : (s.setCommitValid b).errCause = s.errCause := rfl
@[simp] theorem setCommitValid_commitValid (s : State) (b : Bool) : (s.setCommitValid b).commitValid = b := rfl
@[simp] theorem setCommitValid_eofValid (s : State) (b : Bool) : (s.setCommitValid b).eofValid = s.eofValid := rfl
@[simp] theorem setCommitValid_trace (s : State) (b : Bool) : (s.setCommitValid b).trace = s.trace := rfl
@[simp] theorem setCommitValid_ret (s : State) (b : Bool) : (s.setCommitValid b).ret = s.ret := rfl
@[simp] theorem setCommitValid_pending (s : State) (b : Bool) : (s.setCommitValid b).pending = s.pending := rfl
@[simp] theorem setCommitValid_envTick (s : State) (b : Bool) : (s.setCommitValid b).envTick = s.envTick := rfl
@[simp] theorem setCommitValid_draws (s : State) (b : Bool) : (s.setCommitValid b).draws = s.draws := rfl

@[simp] theorem setEofValid_cfg (s : State) (b : Bool) : (s.setEofValid b).cfg = s.cfg := rfl
@[simp] theorem setEofValid_rxq (s : State) (b : Bool) : (s.setEofValid b).rxq = s.rxq := rfl
@[simp] theorem setEofValid_txq (s : State) (b : Bool) : (s.setEofValid b).txq = s.txq := rfl
@[simp] theorem setEofValid_stq (s : State) (b : Bool) : (s.setEofValid b).stq = s.stq := rfl
@[simp] theorem setEofValid_tr (s : State) (b : Bool) : (s.setEofValid b).tr = s.tr := rfl
@[simp] theorem setEofValid_phase (s : State) (b : Bool) : (s.setEofValid b).phase = s.phase := rfl
@[simp] theorem setEofValid_pstate (s : State) (b : Bool) : (s.setEofValid b).pstate = s.pstate := rfl
@[simp] theorem setEofValid_pend (s : State) (b : Bool) : (s.setEofValid b).pend = s.pend := rfl
@[simp] theorem setEofValid_cksum (s : State) (b : Bool) : (s.setEofValid b).cksum = s.cksum := rfl
@[simp] theorem setEofValid_page (s : State) (b : Bool) : (s.setEofValid b).page = s.page := rfl
@[simp] theorem setEofValid_errCause (s : State) (b : Bool) : (s.setEofValid b).errCause = s.errCause := rfl
@[simp] theorem setEofValid_commitValid (s : State) (b : Bool) : (s.setEofValid b).commitValid = s.commitValid := rfl
@[simp] theorem setEofValid_eofValid (s : State) (b : Bool) : (s.setEofValid b).eofValid = b := rfl
@[simp] theorem setEofValid_trace (s : State) (b : Bool) : (s.setEofValid b).trace = s.trace := rfl
@[simp] theorem setEofValid_ret (s : State) (b : Bool) : (s.setEofValid b).ret = s.ret := rfl
@[simp] theorem setEofValid_pending (s : State) (b : Bool) : (s.setEofValid b).pending = s.pending := rfl
@[simp] theorem setEofValid_envTick (s : State) (b : Bool) : (s.setEofValid b).envTick = s.envTick := rfl
@[simp] theorem setEofValid_draws (s : State) (b : Bool) : (s.setEofValid b).draws = s.draws := rfl

@[simp] theorem observe_cfg (s : State) (e : Event) : (s.observe e).cfg = s.cfg := rfl
@[simp] theorem observe_rxq (s : State) (e : Event) : (s.observe e).rxq = s.rxq := rfl
@[simp] theorem observe_txq (s : State) (e : Event) : (s.observe e).txq = s.txq := rfl
@[simp] theorem observe_stq (s : State) (e : Event) : (s.observe e).stq = s.stq := rfl
@[simp] theorem observe_tr (s : State) (e : Event) : (s.observe e).tr = s.tr := rfl
@[simp] theorem observe_phase (s : State) (e : Event) : (s.observe e).phase = s.phase := rfl
@[simp] theorem observe_pstate (s : State) (e : Event) : (s.observe e).pstate = s.pstate := rfl
@[simp] theorem observe_pend (s : State) (e : Event) : (s.observe e).pend = s.pend := rfl
@[simp] theorem observe_cksum (s : State) (e : Event) : (s.observe e).cksum = s.cksum := rfl
@[simp] theorem observe_page (s : State) (e : Event) : (s.observe e).page = s.page := rfl
@[simp] theorem observe_errCause (s : State) (e : Event) : (s.observe e).errCause = s.errCause := rfl
@[simp] theorem observe_commitValid (s : State) (e : Event) : (s.observe e).commitValid = s.commitValid := rfl
@[simp] theorem observe_eofValid (s : State) (e : Event) : (s.observe e).eofValid = s.eofValid := rfl
@[simp] theorem observe_trace (s : State) (e : Event) : (s.observe e).trace = e :: s.trace := rfl
@[simp] theorem observe_ret (s : State) (e : Event) : (s.observe e).ret = s.ret := rfl
@[simp] theorem observe_pending (s : State) (e : Event) : (s.observe e).pending = s.pending := rfl
@[simp] theorem observe_envTick (s : State) (e : Event) : (s.observe e).envTick = s.envTick := rfl
@[simp] theorem observe_draws (s : State) (e : Event) : (s.observe e).draws = s.draws := rfl

@[simp] theorem setRet_cfg (s : State) (r : Returned) : (s.setRet r).cfg = s.cfg := rfl
@[simp] theorem setRet_rxq (s : State) (r : Returned) : (s.setRet r).rxq = s.rxq := rfl
@[simp] theorem setRet_txq (s : State) (r : Returned) : (s.setRet r).txq = s.txq := rfl
@[simp] theorem setRet_stq (s : State) (r : Returned) : (s.setRet r).stq = s.stq := rfl
@[simp] theorem setRet_tr (s : State) (r : Returned) : (s.setRet r).tr = s.tr := rfl
@[simp] theorem setRet_phase (s : State) (r : Returned) : (s.setRet r).phase = s.phase := rfl
@[simp] theorem setRet_pstate (s : State) (r : Returned) : (s.setRet r).pstate = s.pstate := rfl
@[simp] theorem setRet_pend (s : State) (r : Returned) : (s.setRet r).pend = s.pend := rfl
@[simp] theorem setRet_cksum (s : State) (r : Returned) : (s.setRet r).cksum = s.cksum := rfl
@[simp] theorem setRet_page (s : State) (r : Returned) : (s.setRet r).page = s.page := rfl
@[simp] theorem setRet_errCause (s : State) (r : Returned) : (s.setRet r).errCause = s.errCause := rfl
@[simp] theorem setRet_commitValid (s : State) (r : Returned) : (s.setRet r).commitValid = s.commitValid := rfl
@[simp] theorem setRet_eofValid (s : State) (r : Returned) : (s.setRet r).eofValid = s.eofValid := rfl
@[simp] theorem setRet_trace (s : State) (r : Returned) : (s.setRet r).trace = s.trace := rfl
@[simp] theorem setRet_ret (s : State) (r : Returned) : (s.setRet r).ret = r := rfl
@[simp] theorem setRet_pending (s : State) (r : Returned) : (s.setRet r).pending = s.pending := rfl
@[simp] theorem setRet_envTick (s : State) (r : Returned) : (s.setRet r).envTick = s.envTick := rfl
@[simp] theorem setRet_draws (s : State) (r : Returned) : (s.setRet r).draws = s.draws := rfl

end Sys2Proof.Machine.State
end

