-- ==== Sys2Proof/Laws/Ops.lean ====
section
/-! SUPPORT. What each shared operation can do, said once: for an operation with branches, the cases of its result; for the entry into Error and the diagnostic push, the fields they leave alone. -/

namespace Sys2Proof.Machine

theorem toOut_eq_next {r : Run State} {t : State} (h : toOut r = .next t) : r = .ok t := by
  cases r with
  | ok s => simp only [toOut, Host.Outcome.next.injEq] at h; rw [h]
  | error f => simp [toOut] at h

theorem mapNext_eq_next {f : State → State} {o : Out} {t : State} (h : mapNext f o = .next t) :
    ∃ s, o = .next s ∧ t = f s := by
  cases o with
  | next s => simp only [mapNext, Host.Outcome.next.injEq] at h; exact ⟨s, rfl, h.symm⟩
  | fault e => simp [mapNext] at h
  | refused r => simp [mapNext] at h

theorem guarded_eq_next {m : String} {ok : Bool} {r : Run State} {t : State} (h : guarded m ok r = .next t) :
    ok = true ∧ r = .ok t := by
  cases ok with
  | true => exact ⟨rfl, toOut_eq_next h⟩
  | false => simp [guarded] at h

/-! ### Asynchronous FIFOs -/

/-- `AQ.PUSH` drops the byte on a full view and takes it otherwise. -/
theorem aqPush_cases (q : QueueId) (b : Byte) (s : State) :
    ((s.fifo q).full (s.aw q) = true ∧ aqPush q b s = (false, s.observe (.drop q b))) ∨
    ((s.fifo q).full (s.aw q) = false ∧
      aqPush q b s = (true, s.setFifo q ((s.fifo q).accept (s.aw q) b))) := by
  cases h : (s.fifo q).full (s.aw q)
  · exact .inr ⟨rfl, by simp [aqPush, h]⟩
  · exact .inl ⟨rfl, by simp [aqPush, h]⟩

/-- `AQ.POP` gives no byte on an empty view and the byte at the removal cursor otherwise. -/
theorem aqPop_cases (q : QueueId) (s : State) :
    ((s.fifo q).empty = true ∧ aqPop q s = (none, s)) ∨
    ((s.fifo q).empty = false ∧
      aqPop q s = (some ((s.fifo q).front (fifoArray q) (s.aw q)),
        s.setFifo q ((s.fifo q).advance (s.aw q)))) := by
  cases h : (s.fifo q).empty
  · exact .inr ⟨rfl, by simp [aqPop, h]⟩
  · exact .inl ⟨rfl, by simp [aqPop, h]⟩

/-! ### The staging queue -/

/-- `STQ.ENQ`, where it ends, drops the byte on a full queue and stores it at the cursor otherwise. -/
theorem stqEnq_cases {b : Byte} {s : State} {r : Bool × State} (h : stqEnq b s = .ok r) :
    (s.stq.cnt = s.cfg.stDepth ∧ r = (false, s.observe (.dropStaging b))) ∨
    (s.stq.cnt ≠ s.cfg.stDepth ∧ s.stq.inp < s.cfg.stDepth ∧ r = (true, s.setStq { s.stq with
      mem := s.stq.mem.write s.stq.inp b
      inp := nextCursor s.cfg.stDepth s.stq.inp
      cnt := (s.stq.cnt + 1) % 2 ^ s.cfg.stNw })) := by
  by_cases hf : s.stq.cnt = s.cfg.stDepth
  · simp [stqEnq, State.stqFull, hf] at h
    exact .inl ⟨hf, h.symm⟩
  · by_cases hi : s.stq.inp < s.cfg.stDepth
    · simp [stqEnq, State.stqFull, hf, hi] at h
      exact .inr ⟨hf, hi, h.symm⟩
    · simp [stqEnq, State.stqFull, hf, hi] at h

/-- `STQ.DEQ`, where it ends, gives no byte on an empty queue and the byte at the cursor otherwise. -/
theorem stqDeq_cases {s : State} {r : Option Byte × State} (h : stqDeq s = .ok r) :
    (s.stq.cnt = 0 ∧ r = (none, s)) ∨
    (s.stq.cnt ≠ 0 ∧ s.stq.out < s.cfg.stDepth ∧
      r = (some (s.stq.mem.read .stqMem s.stq.out), s.setStq { s.stq with
        out := nextCursor s.cfg.stDepth s.stq.out
        cnt := s.stq.cnt - 1 })) := by
  by_cases hf : s.stq.cnt = 0
  · simp [stqDeq, State.stqEmpty, hf] at h
    exact .inl ⟨hf, h.symm⟩
  · by_cases hi : s.stq.out < s.cfg.stDepth
    · simp [stqDeq, State.stqEmpty, hf, hi] at h
      exact .inr ⟨hf, hi, h.symm⟩
    · simp [stqDeq, State.stqEmpty, hf, hi] at h

theorem nextCursor_lt {depth c : Nat} (h : c < depth) : nextCursor depth c < depth := by
  rw [nextCursor]; split <;> omega

/-! ### Page -/

/-- `AppendByte`, where it ends, stores the byte at `pg_len` and advances it. -/
theorem appendByte_cases {y : Byte} {s t : State} (h : appendByte y s = .ok t) :
    s.page.len < s.cfg.pageSize ∧ t = s.setPage { s.page with
      data := s.page.data.write s.page.len y
      len := (s.page.len + 1) % 2 ^ s.cfg.pgLw } := by
  by_cases hl : s.page.len < s.cfg.pageSize
  · simp only [appendByte, if_pos hl, Except.ok.injEq] at h
    exact ⟨hl, h.symm⟩
  · simp [appendByte, hl] at h

/-! ### Nibbles -/

theorem takeNibble_high {v : Nibble} {p : PendingRecord} (h : p.nibPhase = false) :
    takeNibble v p = (none, { p with acc := v ++ (0 : Nibble), nibPhase := true }) := by
  simp [takeNibble, h]

theorem takeNibble_low {v : Nibble} {p : PendingRecord} (h : p.nibPhase = true) :
    takeNibble v p = (some (p.acc.extractLsb' 4 4 ++ v),
      { p with acc := p.acc.extractLsb' 4 4 ++ v, nibPhase := false }) := by
  simp [takeNibble, h]

/-- A byte is valid for `HexDecode` exactly when its class is HEX. -/
theorem hexDecode_valid_eq_isHex (b : Byte) : (hexDecode b).1 = isHex b := by
  revert b; decide +kernel

/-! ### Diagnostics and the entry into Error -/

/-- `DiagPush` drops the byte on a full view of `txq` and pushes it otherwise. -/
theorem diagPush_cases (b : Byte) (s : State) :
    (s.txq.full s.cfg.txAw = true ∧ diagPush b s = s.observe (.drop .txq b)) ∨
    (s.txq.full s.cfg.txAw = false ∧ diagPush b s = s.setTxq (s.txq.accept s.cfg.txAw b)) := by
  rcases aqPush_cases .txq b s with ⟨hf, he⟩ | ⟨hf, he⟩
  · exact .inl ⟨hf, by rw [diagPush, he]⟩
  · exact .inr ⟨hf, by rw [diagPush, he]; rfl⟩

@[simp] theorem diagPush_cfg (b : Byte) (s : State) : (diagPush b s).cfg = s.cfg := by
  rcases diagPush_cases b s with ⟨-, h⟩ | ⟨-, h⟩ <;> rw [h] <;> rfl

@[simp] theorem diagPush_rxq (b : Byte) (s : State) : (diagPush b s).rxq = s.rxq := by
  rcases diagPush_cases b s with ⟨-, h⟩ | ⟨-, h⟩ <;> rw [h] <;> rfl

@[simp] theorem diagPush_stq (b : Byte) (s : State) : (diagPush b s).stq = s.stq := by
  rcases diagPush_cases b s with ⟨-, h⟩ | ⟨-, h⟩ <;> rw [h] <;> rfl

@[simp] theorem diagPush_tr (b : Byte) (s : State) : (diagPush b s).tr = s.tr := by
  rcases diagPush_cases b s with ⟨-, h⟩ | ⟨-, h⟩ <;> rw [h] <;> rfl

@[simp] theorem diagPush_phase (b : Byte) (s : State) : (diagPush b s).phase = s.phase := by
  rcases diagPush_cases b s with ⟨-, h⟩ | ⟨-, h⟩ <;> rw [h] <;> rfl

@[simp] theorem diagPush_pstate (b : Byte) (s : State) : (diagPush b s).pstate = s.pstate := by
  rcases diagPush_cases b s with ⟨-, h⟩ | ⟨-, h⟩ <;> rw [h] <;> rfl

@[simp] theorem diagPush_pend (b : Byte) (s : State) : (diagPush b s).pend = s.pend := by
  rcases diagPush_cases b s with ⟨-, h⟩ | ⟨-, h⟩ <;> rw [h] <;> rfl

@[simp] theorem diagPush_cksum (b : Byte) (s : State) : (diagPush b s).cksum = s.cksum := by
  rcases diagPush_cases b s with ⟨-, h⟩ | ⟨-, h⟩ <;> rw [h] <;> rfl

@[simp] theorem diagPush_page (b : Byte) (s : State) : (diagPush b s).page = s.page := by
  rcases diagPush_cases b s with ⟨-, h⟩ | ⟨-, h⟩ <;> rw [h] <;> rfl

@[simp] theorem diagPush_errCause (b : Byte) (s : State) : (diagPush b s).errCause = s.errCause := by
  rcases diagPush_cases b s with ⟨-, h⟩ | ⟨-, h⟩ <;> rw [h] <;> rfl

@[simp] theorem diagPush_commitValid (b : Byte) (s : State) : (diagPush b s).commitValid = s.commitValid := by
  rcases diagPush_cases b s with ⟨-, h⟩ | ⟨-, h⟩ <;> rw [h] <;> rfl

@[simp] theorem diagPush_eofValid (b : Byte) (s : State) : (diagPush b s).eofValid = s.eofValid := by
  rcases diagPush_cases b s with ⟨-, h⟩ | ⟨-, h⟩ <;> rw [h] <;> rfl

@[simp] theorem diagPush_ret (b : Byte) (s : State) : (diagPush b s).ret = s.ret := by
  rcases diagPush_cases b s with ⟨-, h⟩ | ⟨-, h⟩ <;> rw [h] <;> rfl

@[simp] theorem diagPush_pending (b : Byte) (s : State) : (diagPush b s).pending = s.pending := by
  rcases diagPush_cases b s with ⟨-, h⟩ | ⟨-, h⟩ <;> rw [h] <;> rfl

@[simp] theorem diagPush_envTick (b : Byte) (s : State) : (diagPush b s).envTick = s.envTick := by
  rcases diagPush_cases b s with ⟨-, h⟩ | ⟨-, h⟩ <;> rw [h] <;> rfl

@[simp] theorem diagPush_draws (b : Byte) (s : State) : (diagPush b s).draws = s.draws := by
  rcases diagPush_cases b s with ⟨-, h⟩ | ⟨-, h⟩ <;> rw [h] <;> rfl

@[simp] theorem enterError_cfg (c : Cause) (s : State) : (enterError c s).cfg = s.cfg := by
  simp [enterError]

@[simp] theorem enterError_rxq (c : Cause) (s : State) : (enterError c s).rxq = s.rxq := by
  simp [enterError]

@[simp] theorem enterError_stq (c : Cause) (s : State) : (enterError c s).stq = s.stq := by
  simp [enterError]

@[simp] theorem enterError_tr (c : Cause) (s : State) : (enterError c s).tr = s.tr := by
  simp [enterError]

@[simp] theorem enterError_phase (c : Cause) (s : State) : (enterError c s).phase = s.phase := by
  simp [enterError]

@[simp] theorem enterError_pend (c : Cause) (s : State) : (enterError c s).pend = s.pend := by
  simp [enterError]

@[simp] theorem enterError_cksum (c : Cause) (s : State) : (enterError c s).cksum = s.cksum := by
  simp [enterError]

@[simp] theorem enterError_page (c : Cause) (s : State) : (enterError c s).page = s.page := by
  simp [enterError]

@[simp] theorem enterError_commitValid (c : Cause) (s : State) : (enterError c s).commitValid = s.commitValid := by
  simp [enterError]

@[simp] theorem enterError_eofValid (c : Cause) (s : State) : (enterError c s).eofValid = s.eofValid := by
  simp [enterError]

@[simp] theorem enterError_ret (c : Cause) (s : State) : (enterError c s).ret = s.ret := by
  simp [enterError]

@[simp] theorem enterError_pending (c : Cause) (s : State) : (enterError c s).pending = s.pending := by
  simp [enterError]

@[simp] theorem enterError_envTick (c : Cause) (s : State) : (enterError c s).envTick = s.envTick := by
  simp [enterError]

@[simp] theorem enterError_draws (c : Cause) (s : State) : (enterError c s).draws = s.draws := by
  simp [enterError]

@[simp] theorem enterError_pstate (c : Cause) (s : State) : (enterError c s).pstate = .error := by
  simp [enterError]

@[simp] theorem enterError_errCause (c : Cause) (s : State) : (enterError c s).errCause = some c := by
  simp [enterError]

end Sys2Proof.Machine
end

