-- ==== Sys2Proof/Laws/Execution.lean ====
section
/-! SUPPORT. What a step can do to the two sides of a crossing, said once: for each crossing signal the source's value, its ghost fields and the two synchroniser stages move in one of four ways. Then the first facts about executions and the bytes offered in them. -/

namespace Sys2Proof.Machine

/-! ### Inverting a step -/

/-- A step that completes fetched an instruction, and the instruction completed. -/
theorem stepWith_cases {e : EnvStep} {s t : State} (h : stepWith e s = .next t) :
    ∃ i rest u, fetch e s = .ok (i, rest) ∧ exec i (beginEdge e s) = .next u ∧ t = endEdge e u := by
  rw [stepWith] at h
  cases hf : fetch e s with
  | error _ => rw [hf] at h; cases h
  | ok r =>
    obtain ⟨i, rest⟩ := r
    rw [hf] at h
    obtain ⟨u, hu, ht⟩ := mapNext_eq_next h
    exact ⟨i, rest, u, rfl, hu, ht⟩

/-- A receive edge fetches one of its three operations. -/
theorem fetch_rx_cases {v : Bool} {d : Byte} {l : Bool} {s : State} {i : Instr} {rest : List Byte}
    (h : fetch (.rx v d l) s = .ok (i, rest)) : i = .rxIdle ∨ i = .rxPush d ∨ i = .rxDrop d := by
  cases v <;> cases hf : s.rxq.full s.cfg.rxAw <;>
    simp [fetch, fetchFrame, rxVector, hf, bit, decode, decodeRxVector, Except.map] at h <;> simp [h.1.symm]

/-- A core edge fetches one of its six operations. -/
theorem fetch_core_cases {c l l' : Bool} {s : State} {i : Instr} {rest : List Byte}
    (h : fetch (.core c l l') s = .ok (i, rest)) :
    i = .coreClr ∨ i = .corePumpMove ∨ i = .corePumpDone ∨ i = .coreParse ∨ i = .coreParseNop ∨ i = .coreArm := by
  cases c <;> cases hp : s.phase <;> cases hc : coreCondition s <;>
    simp [fetch, fetchFrame, coreVector, hp, hc, phaseCode, bit, decode, decodeCoreVector, Except.map] at h <;>
    simp [h.1.symm]

/-- A transmit edge fetches one of its three operations. -/
theorem fetch_tx_cases {r l l' : Bool} {s : State} {i : Instr} {rest : List Byte}
    (h : fetch (.tx r l l') s = .ok (i, rest)) : i = .txSend ∨ i = .txPark ∨ i = .txIdle := by
  cases r <;> cases hi : s.tr.txIe <;> cases he : s.txq.empty <;>
    simp [fetch, fetchFrame, txVector, hi, he, bit, decode, decodeTxVector, Except.map] at h <;> simp [h.1.symm]

theorem fetch_rst {s : State} {i : Instr} {rest : List Byte} (h : fetch .rst s = .ok (i, rest)) : i = .reset := by
  simp [fetch, fetchFrame, decode] at h; exact h.1.symm

/-! ### What a core operation leaves alone -/

/-- The parser's reach outside its own registers: `rxq` and the transmit control stay, and `txq` takes at most one
byte (spec/60_exceptions.md R201, R203, spec/45_orchestrator.md R188). -/
structure ParserReach (s t : State) : Prop where
  rxq : t.rxq = s.rxq
  tr : t.tr = s.tr
  txq : t.txq = s.txq ∨ ∃ d, t.txq = s.txq.accept s.cfg.txAw d

theorem ParserReach.of_same {s t : State} (hr : t.rxq = s.rxq) (ht : t.tr = s.tr) (hq : t.txq = s.txq) :
    ParserReach s t := ⟨hr, ht, .inl hq⟩

/-- A reach from a state that agrees with `s` on the registers concerned is a reach from `s`. -/
theorem ParserReach.from_same {s s' t : State} (h : ParserReach s' t) (hr : s'.rxq = s.rxq) (ht : s'.tr = s.tr)
    (hq : s'.txq = s.txq) (hc : s'.cfg = s.cfg) : ParserReach s t :=
  ⟨h.rxq.trans hr, h.tr.trans ht, by rw [← hq, ← hc]; exact h.txq⟩

/-- A reach to a state that agrees with `t` on the registers concerned. -/
theorem ParserReach.to_same {s t t' : State} (h : ParserReach s t) (hr : t'.rxq = t.rxq) (ht : t'.tr = t.tr)
    (hq : t'.txq = t.txq) : ParserReach s t' :=
  ⟨hr.trans h.rxq, ht.trans h.tr, by rw [hq]; exact h.txq⟩

theorem diagPush_reach (b : Byte) (s : State) : ParserReach s (diagPush b s) := by
  refine ⟨by simp, by simp, ?_⟩
  rcases diagPush_cases b s with ⟨-, h⟩ | ⟨-, h⟩ <;> rw [h]
  · exact .inl rfl
  · exact .inr ⟨b, rfl⟩

theorem enterError_reach (c : Cause) (s : State) : ParserReach s (enterError c s) :=
  (diagPush_reach _ _).from_same rfl rfl rfl rfl

theorem recordKind_reach (t : Byte) (s : State) : ParserReach s (recordKind t s) := by
  rw [recordKind]
  split
  · exact .of_same rfl rfl rfl
  · split
    · exact .of_same rfl rfl rfl
    · exact enterError_reach .recType s

theorem bcNib_reach (v : Nibble) (s : State) : ParserReach s (bcNib v s) := by
  rw [bcNib]; split <;> exact .of_same rfl rfl rfl

theorem addrNib_reach (v : Nibble) (s : State) : ParserReach s (addrNib v s) := by
  rw [addrNib]
  split
  · exact .of_same rfl rfl rfl
  · dsimp only
    split
    · exact .of_same rfl rfl rfl
    · split <;> exact .of_same rfl rfl rfl

theorem rtNib_reach (v : Nibble) (s : State) : ParserReach s (rtNib v s) := by
  rw [rtNib]
  split
  · exact .of_same rfl rfl rfl
  · exact (recordKind_reach _ _).from_same rfl rfl rfl rfl

theorem dataNib_reach {v : Nibble} {s t : State} (h : dataNib v s = .ok t) : ParserReach s t := by
  rw [dataNib] at h
  split at h
  · cases h; exact .of_same rfl rfl rfl
  · split at h
    · cases h
    · next ha =>
      cases h
      rw [(appendByte_cases ha).2]
      exact .of_same rfl rfl rfl

theorem checksumGood_reach (s : State) : ParserReach s (checksumGood s) := by
  constructor <;> simp [checksumGood, resetPending, commit]

theorem ckNib_reach (v : Nibble) (s : State) : ParserReach s (ckNib v s) := by
  rw [ckNib]
  split
  · constructor <;> simp
  · dsimp only
    split
    · exact (checksumGood_reach _).from_same (by simp [cksumAdd]) (by simp [cksumAdd]) (by simp [cksumAdd])
        (by simp [cksumAdd])
    · exact (enterError_reach .checksum _).from_same (by simp [cksumAdd]) (by simp [cksumAdd]) (by simp [cksumAdd])
        (by simp [cksumAdd])

theorem endAny_reach (s : State) : ParserReach s (endAny s) := by
  rw [endAny]
  split
  · exact (diagPush_reach s.cfg.diagEof s).to_same (by simp [resetPending]) (by simp [resetPending])
      (by simp [resetPending])
  · constructor <;> simp

theorem errAny_reach (b : Byte) (s : State) : ParserReach s (errAny b s) := by
  rw [errAny]
  split
  · exact (diagPush_reach b s).to_same (by simp) (by simp) (by simp)
  · constructor <;> simp

theorem startRecord_reach (s : State) : ParserReach s (startRecord s) := by
  constructor <;> simp [startRecord, cksumClear, beginPage, resetPending]

/-- `ParserStep` reaches no further than its own registers and one push into `txq`. -/
theorem parserStep_reach {b : Byte} {s t : State} (h : parserStep b s = .ok t) : ParserReach s t := by
  rw [parserStep] at h
  split at h
  case h_10 => exact dataNib_reach h
  all_goals cases h
  case h_1 => exact .of_same rfl rfl rfl
  case h_2 | h_16 => exact (startRecord_reach s).to_same (State.setPstate_rxq ..) (State.setPstate_tr ..) (State.setPstate_txq ..)
  case h_4 => exact bcNib_reach _ s
  case h_6 => exact addrNib_reach _ s
  case h_8 => exact rtNib_reach _ s
  case h_12 => exact ckNib_reach _ s
  case h_14 => exact endAny_reach s
  case h_15 => exact errAny_reach b s
  all_goals exact enterError_reach .framing s

/-- `CORE.PARSE` reaches no further than `stq`, the phase and the parser's reach. -/
theorem coreParse_reach {s t : State} (h : coreParse s = .ok t) : ParserReach s t := by
  rw [coreParse] at h
  cases hd : stqDeq s with
  | error _ => rw [hd] at h; cases h
  | ok r =>
    rw [hd] at h
    rcases stqDeq_cases hd with ⟨-, rfl⟩ | ⟨-, -, rfl⟩
    · cases h; exact .of_same rfl rfl rfl
    · dsimp only at h
      split at h
      · cases h
      · next hp =>
        cases h
        exact (ParserReach.from_same (s := s) (parserStep_reach hp) rfl rfl rfl rfl).to_same rfl rfl rfl

/-- `CORE.PUMP_MOVE` touches `rxq` by at most one pop, and neither `txq` nor the transmit control. -/
theorem pumpMove_reach {s t : State} (h : pumpMove s = .ok t) :
    t.txq = s.txq ∧ t.tr = s.tr ∧ (t.rxq = s.rxq ∨ t.rxq = s.rxq.advance s.cfg.rxAw) := by
  rw [pumpMove] at h
  rcases aqPop_cases .rxq s with ⟨-, hq⟩ | ⟨-, hq⟩ <;> rw [hq] at h <;> dsimp only at h
  · cases h; exact ⟨rfl, rfl, .inl rfl⟩
  · split at h
    · cases h
    · next hs =>
      cases h
      rcases stqEnq_cases hs with ⟨-, hr⟩ | ⟨-, -, hr⟩ <;> cases hr <;> exact ⟨rfl, rfl, .inr rfl⟩

/-! ### The five crossings -/

/-- A crossing as its two sides hold it: the source's value with its ghost fields, and the two stages of the
destination's synchroniser (spec/40_bytequeue.md R95, R96). -/
structure Crossing.View (α : Type) where
  cur : α
  prev : α
  fresh : Bool
  first : α
  second : α

/-- What one step can do to a crossing. At an edge of the destination the stages shift; otherwise nothing changes, or
the source takes a value (and the one before it is remembered), or all is reset to one value. -/
inductive Crossing.View.Next {α : Type} (dest : Prop) (v : View α) : View α → Prop where
  | shift (h : dest) (late : Bool) :
    Next dest v ⟨v.cur, v.prev, false, sampled v.cur v.prev v.fresh late, v.first⟩
  | keep (h : ¬ dest) : Next dest v v
  | change (h : ¬ dest) (c : α) : Next dest v ⟨c, v.cur, true, v.first, v.second⟩
  | reset (h : ¬ dest) (z : α) : Next dest v ⟨z, z, false, z, z⟩

/-- The write pointer of a FIFO as its read side sees it. -/
def AsyncFifo.writeView (q : AsyncFifo) : Crossing.View Nat := ⟨q.wgray, q.wgrayPrev, q.wgrayFresh, q.wq1, q.wq2⟩

/-- The read pointer of a FIFO as its write side sees it. -/
def AsyncFifo.readView (q : AsyncFifo) : Crossing.View Nat := ⟨q.rgray, q.rgrayPrev, q.rgrayFresh, q.rq1, q.rq2⟩

/-- The arm request as the transmit domain sees it. -/
def Transport.armView (t : Transport) : Crossing.View Bool := ⟨t.armReq, t.armPrev, t.armFresh, t.armQ1, t.armQ2⟩

/-! ### What the edge of each domain does to the queues and the transmit control -/

/-- A receive edge: at most one push into `rxq`, and the write side's synchroniser. -/
theorem stepWith_rx_effect {v : Bool} {d : Byte} {l : Bool} {s t : State} (h : stepWith (.rx v d l) s = .next t) :
    t.txq = s.txq ∧ t.tr = s.tr ∧
    ∃ q, (q = s.rxq ∨ q = s.rxq.accept s.cfg.rxAw d) ∧ t.rxq = q.syncWrite l := by
  obtain ⟨i, rest, u, hf, hu, rfl⟩ := stepWith_cases h
  rcases fetch_rx_cases hf with rfl | rfl | rfl <;> cases hu
  · exact ⟨rfl, rfl, _, .inl rfl, rfl⟩
  · rcases aqPush_cases .rxq d s with ⟨-, hq⟩ | ⟨-, hq⟩ <;> simp only [beginEdge, rxPush, hq]
    · exact ⟨rfl, rfl, _, .inl rfl, rfl⟩
    · exact ⟨rfl, rfl, _, .inr rfl, rfl⟩
  · exact ⟨rfl, rfl, _, .inl rfl, rfl⟩

/-- An operation of the core edge: at most one pop of `rxq`, one push into `txq`, one write of `arm_req`. -/
theorem core_operation_effect {i : Instr} {s u : State}
    (hi : i = .coreClr ∨ i = .corePumpMove ∨ i = .corePumpDone ∨ i = .coreParse ∨ i = .coreParseNop ∨ i = .coreArm)
    (hu : exec i s = .next u) :
    (u.rxq = s.rxq ∨ u.rxq = s.rxq.advance s.cfg.rxAw) ∧
    (u.txq = s.txq ∨ ∃ d, u.txq = s.txq.accept s.cfg.txAw d) ∧
    (u.tr = s.tr ∨ ∃ v, u.tr = { s.tr with armReq := v, armPrev := s.tr.armReq, armFresh := true }) := by
  rcases hi with rfl | rfl | rfl | rfl | rfl | rfl
  · cases hu; simp [clearParser, cksumClear, resetPending]
  · obtain ⟨hq, ht, hr⟩ := pumpMove_reach (toOut_eq_next hu)
    exact ⟨hr, .inl hq, .inl ht⟩
  · cases hu; exact ⟨.inl rfl, .inl rfl, .inl rfl⟩
  · have hr := coreParse_reach (toOut_eq_next hu)
    exact ⟨.inl hr.rxq, hr.txq, .inl hr.tr⟩
  · cases hu; exact ⟨.inl rfl, .inl rfl, .inl rfl⟩
  · cases hu
    refine ⟨.inl ?_, .inl ?_, ?_⟩
    · simp only [coreArm, armRequest]; split <;> rfl
    · simp only [coreArm, armRequest]; split <;> rfl
    · simp only [coreArm, armRequest]
      split
      · exact .inl rfl
      · exact .inr ⟨_, rfl⟩

/-- A core edge: the effect of its operation, and the synchronisers of `rxq`'s read side and `txq`'s write side. -/
theorem stepWith_core_effect {c l l' : Bool} {s t : State} (h : stepWith (.core c l l') s = .next t) :
    (∃ q, (q = s.rxq ∨ q = s.rxq.advance s.cfg.rxAw) ∧ t.rxq = q.syncRead l) ∧
    (∃ q, (q = s.txq ∨ ∃ d, q = s.txq.accept s.cfg.txAw d) ∧ t.txq = q.syncWrite l') ∧
    (t.tr = s.tr ∨ ∃ v, t.tr = { s.tr with armReq := v, armPrev := s.tr.armReq, armFresh := true }) := by
  obtain ⟨i, rest, u, hf, hu, rfl⟩ := stepWith_cases h
  obtain ⟨hr, hq, ht⟩ := core_operation_effect (fetch_core_cases hf) hu
  exact ⟨⟨u.rxq, hr, rfl⟩, ⟨u.txq, hq, rfl⟩, ht⟩

/-- A transmit edge: at most one pop of `txq`, the read side's synchroniser, and the arm synchroniser. -/
theorem stepWith_tx_effect {r l l' : Bool} {s t : State} (h : stepWith (.tx r l l') s = .next t) :
    t.rxq = s.rxq ∧
    (∃ q, (q = s.txq ∨ q = s.txq.advance s.cfg.txAw) ∧ t.txq = q.syncRead l) ∧
    t.tr.armView = ⟨s.tr.armReq, s.tr.armPrev, false, sampled s.tr.armReq s.tr.armPrev s.tr.armFresh l', s.tr.armQ1⟩ := by
  obtain ⟨i, rest, u, hf, hu, rfl⟩ := stepWith_cases h
  rcases fetch_tx_cases hf with rfl | rfl | rfl <;> cases hu
  · rcases aqPop_cases .txq s with ⟨-, hq⟩ | ⟨-, hq⟩ <;> simp only [beginEdge, txSend, hq]
    · exact ⟨rfl, ⟨_, .inl rfl, rfl⟩, rfl⟩
    · exact ⟨rfl, ⟨_, .inr rfl, rfl⟩, rfl⟩
  · exact ⟨rfl, ⟨_, .inl rfl, rfl⟩, rfl⟩
  · exact ⟨rfl, ⟨_, .inl rfl, rfl⟩, rfl⟩

theorem stepWith_rst_effect {s t : State} (h : stepWith .rst s = .next t) : t = resetStep s := by
  obtain ⟨i, rest, u, hf, hu, rfl⟩ := stepWith_cases h
  cases fetch_rst hf
  cases hu
  rfl

/-! ### Every step moves every crossing in one of the four ways -/

theorem rxq_writeView_next {e : EnvStep} {s t : State} (h : stepWith e s = .next t) :
    s.rxq.writeView.Next (clockOf e = some .core) t.rxq.writeView := by
  cases e with
  | rx v d l =>
    obtain ⟨-, -, q, rfl | rfl, hq⟩ := stepWith_rx_effect h <;> rw [hq]
    · exact .keep (by simp [clockOf])
    · exact .change (by simp [clockOf]) _
  | core c l l' =>
    obtain ⟨⟨q, rfl | rfl, hq⟩, -⟩ := stepWith_core_effect h <;> rw [hq] <;> exact .shift rfl l
  | tx r l l' => rw [(stepWith_tx_effect h).1]; exact .keep (by simp [clockOf])
  | rst => rw [stepWith_rst_effect h]; exact .reset (by simp [clockOf]) 0

theorem rxq_readView_next {e : EnvStep} {s t : State} (h : stepWith e s = .next t) :
    s.rxq.readView.Next (clockOf e = some .receive) t.rxq.readView := by
  cases e with
  | rx v d l =>
    obtain ⟨-, -, q, rfl | rfl, hq⟩ := stepWith_rx_effect h <;> rw [hq] <;> exact .shift rfl l
  | core c l l' =>
    obtain ⟨⟨q, rfl | rfl, hq⟩, -⟩ := stepWith_core_effect h <;> rw [hq]
    · exact .keep (by simp [clockOf])
    · exact .change (by simp [clockOf]) _
  | tx r l l' => rw [(stepWith_tx_effect h).1]; exact .keep (by simp [clockOf])
  | rst => rw [stepWith_rst_effect h]; exact .reset (by simp [clockOf]) 0

theorem txq_writeView_next {e : EnvStep} {s t : State} (h : stepWith e s = .next t) :
    s.txq.writeView.Next (clockOf e = some .transmit) t.txq.writeView := by
  cases e with
  | rx v d l => rw [(stepWith_rx_effect h).1]; exact .keep (by simp [clockOf])
  | core c l l' =>
    obtain ⟨-, ⟨q, rfl | ⟨d, rfl⟩, hq⟩, -⟩ := stepWith_core_effect h <;> rw [hq]
    · exact .keep (by simp [clockOf])
    · exact .change (by simp [clockOf]) _
  | tx r l l' =>
    obtain ⟨-, ⟨q, rfl | rfl, hq⟩, -⟩ := stepWith_tx_effect h <;> rw [hq] <;> exact .shift rfl l
  | rst => rw [stepWith_rst_effect h]; exact .reset (by simp [clockOf]) 0

theorem txq_readView_next {e : EnvStep} {s t : State} (h : stepWith e s = .next t) :
    s.txq.readView.Next (clockOf e = some .core) t.txq.readView := by
  cases e with
  | rx v d l => rw [(stepWith_rx_effect h).1]; exact .keep (by simp [clockOf])
  | core c l l' =>
    obtain ⟨-, ⟨q, rfl | ⟨d, rfl⟩, hq⟩, -⟩ := stepWith_core_effect h <;> rw [hq] <;> exact .shift rfl l'
  | tx r l l' =>
    obtain ⟨-, ⟨q, rfl | rfl, hq⟩, -⟩ := stepWith_tx_effect h <;> rw [hq]
    · exact .keep (by simp [clockOf])
    · exact .change (by simp [clockOf]) _
  | rst => rw [stepWith_rst_effect h]; exact .reset (by simp [clockOf]) 0

theorem armView_next {e : EnvStep} {s t : State} (h : stepWith e s = .next t) :
    s.tr.armView.Next (clockOf e = some .transmit) t.tr.armView := by
  cases e with
  | rx v d l => rw [(stepWith_rx_effect h).2.1]; exact .keep (by simp [clockOf])
  | core c l l' =>
    obtain ⟨-, -, ht | ⟨v, ht⟩⟩ := stepWith_core_effect h <;> rw [ht]
    · exact .keep (by simp [clockOf])
    · exact .change (by simp [clockOf]) v
  | tx r l l' => rw [(stepWith_tx_effect h).2.2]; exact .shift rfl l'
  | rst => rw [stepWith_rst_effect h]; exact .reset (by simp [clockOf]) false

/-! ### Executions -/

/-- The machine's step on a state with a choice placed is the step under that choice. -/
theorem step_placed (e : EnvStep) (rest : List EnvStep) (s : State) :
    step { s with pending := e :: rest } = stepWith e { s with pending := rest } := rfl

/-- After every point of an execution each clock has a next tick. -/
theorem Execution.next_tick (x : Execution) (d : Domain) (n : Nat) :
    ∃ m, n ≤ m ∧ clockOf (x.choices m) = some d ∧ ∀ k, n ≤ k → k < m → clockOf (x.choices k) ≠ some d := by
  classical
  refine ⟨Nat.find (x.fair d n), (Nat.find_spec (x.fair d n)).1, (Nat.find_spec (x.fair d n)).2, ?_⟩
  intro k hnk hk hc
  exact Nat.find_min (x.fair d n) hk ⟨hnk, hc⟩

/-- Once nothing more is offered, the offered bytes stay. -/
theorem Execution.offered_eq_of_noneLater {x : Execution} {n : Nat}
    (h : ∀ m, n ≤ m → offeredAt (x.choices m) = []) : ∀ m, n ≤ m → x.offered m = x.offered n := by
  intro m hm
  induction m, hm using Nat.le_induction with
  | base => rfl
  | succ m hm ih => rw [Execution.offered, h m hm, List.append_nil, ih]

/-- A run over an input ends at one state only. -/
theorem Execution.EndsAt.unique {x : Execution} {input : List Byte} {n m : Nat} (hn : x.EndsAt input n)
    (hm : x.EndsAt input m) : n = m := by
  rcases Nat.lt_trichotomy n m with h | h | h
  · exact absurd hn.1 (hm.2 n h)
  · exact h
  · exact absurd hm.1 (hn.2 m h)

end Sys2Proof.Machine
end

