-- ==== Sys2Proof/Laws/Gray.lean ====
section
/-! SUPPORT. The Gray code of the FIFO pointers: both conversions stay within the width and undo each other (spec/00_scope.md section 6), and the arithmetic of pointer differences. -/

namespace Sys2Proof.Machine

theorem gray2bin_lt (n g : Nat) : gray2bin n g < 2 ^ n := by
  induction n generalizing g with
  | zero => simp [gray2bin]
  | succ n ih =>
    have h := ih (g >>> 1)
    simp only [gray2bin, Nat.pow_succ]
    omega

theorem testBit_bin2gray (b i : Nat) : (bin2gray b).testBit i = (b.testBit i ^^ b.testBit (i + 1)) := by
  simp [bin2gray, Nat.testBit_xor, Nat.testBit_shiftRight, Nat.add_comm]

theorem bin2gray_shiftRight (b : Nat) : bin2gray b >>> 1 = bin2gray (b >>> 1) := by
  apply Nat.eq_of_testBit_eq
  intro i
  simp [testBit_bin2gray, Nat.testBit_shiftRight, Nat.add_comm, Nat.add_left_comm]

theorem bin2gray_mod_two (b : Nat) : (bin2gray b + b >>> 1) % 2 = b % 2 := by
  have h := testBit_bin2gray b 0
  simp only [Nat.testBit_zero, Nat.testBit_add_one, Nat.shiftRight_eq_div_pow] at *
  rcases Nat.mod_two_eq_zero_or_one b with hb | hb <;>
    rcases Nat.mod_two_eq_zero_or_one (b / 2) with hc | hc <;>
      rcases Nat.mod_two_eq_zero_or_one (bin2gray b) with hg | hg <;> simp [hb, hc, hg] at h ⊢ <;> omega

theorem gray2bin_bin2gray (n : Nat) : ∀ b < 2 ^ n, gray2bin n (bin2gray b) = b := by
  induction n with
  | zero => intro b hb; simp at hb; simp [hb, gray2bin]
  | succ n ih =>
    intro b hb
    have hs : b >>> 1 < 2 ^ n := by rw [Nat.shiftRight_eq_div_pow]; rw [Nat.pow_succ] at hb; omega
    have hm := bin2gray_mod_two b
    rw [gray2bin, bin2gray_shiftRight, ih _ hs]
    rw [Nat.shiftRight_eq_div_pow] at *
    omega

theorem bin2gray_lt {n b : Nat} (h : b < 2 ^ n) : bin2gray b < 2 ^ n :=
  Nat.xor_lt_two_pow h (lt_of_le_of_lt (Nat.shiftRight_le b 1) h)

theorem gray2bin_shiftRight (n g : Nat) : gray2bin (n + 1) g >>> 1 = gray2bin n (g >>> 1) := by
  rw [gray2bin, Nat.shiftRight_eq_div_pow]
  omega

theorem bin2gray_eq_shift (b : Nat) : bin2gray b = 2 * (bin2gray b >>> 1) + (b + b >>> 1) % 2 := by
  have h := bin2gray_mod_two b
  rw [Nat.shiftRight_eq_div_pow] at *
  omega

theorem bin2gray_gray2bin (n : Nat) : ∀ g < 2 ^ n, bin2gray (gray2bin n g) = g := by
  induction n with
  | zero => intro g hg; simp at hg; simp [hg, gray2bin, bin2gray]
  | succ n ih =>
    intro g hg
    have hs : g >>> 1 < 2 ^ n := by rw [Nat.shiftRight_eq_div_pow]; rw [Nat.pow_succ] at hg; omega
    rw [bin2gray_eq_shift, bin2gray_shiftRight, gray2bin_shiftRight, ih _ hs, gray2bin,
      Nat.shiftRight_eq_div_pow] at *
    omega

theorem bin2gray_inj {n a b : Nat} (ha : a < 2 ^ n) (hb : b < 2 ^ n) (h : bin2gray a = bin2gray b) : a = b := by
  rw [← gray2bin_bin2gray n a ha, h, gray2bin_bin2gray n b hb]

theorem pointerDiff_lt (pw a b : Nat) : pointerDiff pw a b < 2 ^ pw := Nat.mod_lt _ (Nat.two_pow_pos pw)

theorem pointerDiff_self (pw a : Nat) : pointerDiff pw a a = 0 := by
  have h := Nat.mod_lt a (Nat.two_pow_pos pw)
  have hd := Nat.div_add_mod a (2 ^ pw)
  have : a + (2 ^ pw - a % 2 ^ pw) = 2 ^ pw * (a / 2 ^ pw + 1) := by rw [Nat.mul_add, Nat.mul_one]; omega
  rw [pointerDiff, this, Nat.mul_mod_right]

/-- For pointers within the width the difference is that of the numbers, a full turn added where it is negative. -/
theorem pointerDiff_eq {pw a b : Nat} (ha : a < 2 ^ pw) (hb : b < 2 ^ pw) :
    pointerDiff pw a b = if b ≤ a then a - b else a + 2 ^ pw - b := by
  rw [pointerDiff, Nat.mod_eq_of_lt hb]
  split
  · rw [show a + (2 ^ pw - b) = (a - b) + 2 ^ pw by omega, Nat.add_mod_right]
    exact Nat.mod_eq_of_lt (by omega)
  · rw [show a + (2 ^ pw - b) = a + 2 ^ pw - b by omega]
    exact Nat.mod_eq_of_lt (by omega)

theorem pointerDiff_eq_zero {pw a b : Nat} (ha : a < 2 ^ pw) (hb : b < 2 ^ pw) :
    pointerDiff pw a b = 0 ↔ a = b := by
  rw [pointerDiff_eq ha hb]
  split <;> omega

end Sys2Proof.Machine
end

