-- ==== Sys2Proof/Laws/PerInstr.lean ====
section
/-! SUPPORT. Statements about every instruction as syntax, one lemma for each constructor. -/

namespace Sys2Proof.Laws.FrameLength

/-- The frame that `encode` writes for the instruction has the length of its format, so that frames follow one
another without a separator. -/
def Statement (i : Instr) : Prop := ∀ f bs, encode i = some (f, bs) → bs.length = f.length

theorem pInitSkip (b : Byte) : Statement (.pInitSkip b) := by
  rintro f bs ⟨⟩
  rfl

theorem pInitStart : Statement (.pInitStart) := by
  rintro f bs ⟨⟩
  rfl

theorem pInitBad (b : Byte) : Statement (.pInitBad b) := by
  rintro f bs ⟨⟩
  rfl

theorem pBcNib (b : Byte) : Statement (.pBcNib b) := by
  rintro f bs ⟨⟩
  rfl

theorem pBcBad (b : Byte) : Statement (.pBcBad b) := by
  rintro f bs ⟨⟩
  rfl

theorem pAddrNib (b : Byte) : Statement (.pAddrNib b) := by
  rintro f bs ⟨⟩
  rfl

theorem pAddrBad (b : Byte) : Statement (.pAddrBad b) := by
  rintro f bs ⟨⟩
  rfl

theorem pRtNib (b : Byte) : Statement (.pRtNib b) := by
  rintro f bs ⟨⟩
  rfl

theorem pRtBad (b : Byte) : Statement (.pRtBad b) := by
  rintro f bs ⟨⟩
  rfl

theorem pDataNib (b : Byte) : Statement (.pDataNib b) := by
  rintro f bs ⟨⟩
  rfl

theorem pDataBad (b : Byte) : Statement (.pDataBad b) := by
  rintro f bs ⟨⟩
  rfl

theorem pCkNib (b : Byte) : Statement (.pCkNib b) := by
  rintro f bs ⟨⟩
  rfl

theorem pCkBad (b : Byte) : Statement (.pCkBad b) := by
  rintro f bs ⟨⟩
  rfl

theorem pEndAny (b : Byte) : Statement (.pEndAny b) := by
  rintro f bs ⟨⟩
  rfl

theorem pErrAny (b : Byte) : Statement (.pErrAny b) := by
  rintro f bs ⟨⟩
  rfl

theorem pErrResync : Statement (.pErrResync) := by
  rintro f bs ⟨⟩
  rfl

theorem recData : Statement (.recData) := by
  rintro f bs ⟨⟩
  rfl

theorem recEof : Statement (.recEof) := by
  rintro f bs ⟨⟩
  rfl

theorem recUnsupported (t : Byte) : Statement (.recUnsupported t) := by
  rintro f bs ⟨⟩
  rfl

theorem rxPush (d : Byte) : Statement (.rxPush d) := by
  rintro f bs ⟨⟩
  rfl

theorem rxDrop (d : Byte) : Statement (.rxDrop d) := by
  rintro f bs ⟨⟩
  rfl

theorem rxIdle : Statement (.rxIdle) := by
  rintro f bs ⟨⟩
  rfl

theorem coreClr : Statement (.coreClr) := by
  rintro f bs ⟨⟩
  rfl

theorem corePumpMove : Statement (.corePumpMove) := by
  rintro f bs ⟨⟩
  rfl

theorem corePumpDone : Statement (.corePumpDone) := by
  rintro f bs ⟨⟩
  rfl

theorem coreParse : Statement (.coreParse) := by
  rintro f bs ⟨⟩
  rfl

theorem coreParseNop : Statement (.coreParseNop) := by
  rintro f bs ⟨⟩
  rfl

theorem coreArm : Statement (.coreArm) := by
  rintro f bs ⟨⟩
  rfl

theorem txSend : Statement (.txSend) := by
  rintro f bs ⟨⟩
  rfl

theorem txPark : Statement (.txPark) := by
  rintro f bs ⟨⟩
  rfl

theorem txIdle : Statement (.txIdle) := by
  rintro f bs ⟨⟩
  rfl

theorem stqEnq (b : Byte) : Statement (.stqEnq b) := by
  rintro f bs ⟨⟩
  rfl

theorem stqDeq : Statement (.stqDeq) := by
  rintro f bs ⟨⟩
  rfl

theorem aqPush (q : QueueId) (b : Byte) : Statement (.aqPush q b) := by
  rintro f bs ⟨⟩
  rfl

theorem aqPop (q : QueueId) : Statement (.aqPop q) := by
  rintro f bs ⟨⟩
  rfl

theorem reset : Statement (.reset) := by
  rintro f bs ⟨⟩
  rfl

theorem rxEdge (valid : Bool) (data : Byte) (late : Bool) : Statement (.rxEdge valid data late) := by
  rintro f bs ⟨⟩

theorem txEdge (ready : Bool) (lateTx : Bool) (lateArm : Bool) : Statement (.txEdge ready lateTx lateArm) := by
  rintro f bs ⟨⟩

theorem coreEdge (clr : Bool) (lateRx : Bool) (lateTx : Bool) : Statement (.coreEdge clr lateRx lateTx) := by
  rintro f bs ⟨⟩

theorem parserStep (b : Byte) : Statement (.parserStep b) := by
  rintro f bs ⟨⟩

theorem hexDecode (b : Byte) : Statement (.hexDecode b) := by
  rintro f bs ⟨⟩

theorem takeNibble (v : Nibble) : Statement (.takeNibble v) := by
  rintro f bs ⟨⟩

theorem resetPending : Statement (.resetPending) := by
  rintro f bs ⟨⟩

theorem startRecord : Statement (.startRecord) := by
  rintro f bs ⟨⟩

theorem cksumClear : Statement (.cksumClear) := by
  rintro f bs ⟨⟩

theorem cksumAdd (y : Byte) : Statement (.cksumAdd y) := by
  rintro f bs ⟨⟩

theorem beginPage : Statement (.beginPage) := by
  rintro f bs ⟨⟩

theorem appendByte (y : Byte) : Statement (.appendByte y) := by
  rintro f bs ⟨⟩

theorem commit : Statement (.commit) := by
  rintro f bs ⟨⟩

theorem enterError (c : Cause) : Statement (.enterError c) := by
  rintro f bs ⟨⟩

theorem diagPush (b : Byte) : Statement (.diagPush b) := by
  rintro f bs ⟨⟩

theorem aqSync (side : Side) (late : Bool) : Statement (.aqSync side late) := by
  rintro f bs ⟨⟩

theorem armSync (late : Bool) : Statement (.armSync late) := by
  rintro f bs ⟨⟩

theorem sample (x : Crossing) (late : Bool) : Statement (.sample x late) := by
  rintro f bs ⟨⟩

theorem stqLen : Statement (.stqLen) := by
  rintro f bs ⟨⟩

theorem aqLen (q : QueueId) (k : CountKind) : Statement (.aqLen q k) := by
  rintro f bs ⟨⟩

end Sys2Proof.Laws.FrameLength
end

