-- ==== Sys2Proof/Tests/Slice0.lean ====
section
/-! SUPPORT. Tests: ill-formed terms that WellFormed refuses, words written out bit by bit from the encodings of spec/30_encoding.md, one-step results from the vectors of spec/95_test_vectors.md, and for each statement with hypotheses a state and operands that meet them. -/

open Sys2Proof Sys2Proof.Machine

namespace Sys2Proof.Tests

/-! ### WellFormed refuses, one term for each check -/

theorem test_wf_initSkip : (Instr.pInitSkip 0x20).wf false = false := by decide
theorem test_wf_initBad : ([0x3A, 0x0D, 0x0A].map (fun b => (Instr.pInitBad b).wf false)) = [false, false, false] := by
  decide
theorem test_wf_nib_rows :
    [Instr.pBcNib 0x47, .pAddrNib 0x3A, .pRtNib 0x0D, .pDataNib 0x2F, .pCkNib 0x60].map (Instr.wf false) =
      [false, false, false, false, false] := by decide
theorem test_wf_bad_rows :
    [Instr.pBcBad 0x30, .pAddrBad 0x39, .pRtBad 0x41, .pDataBad 0x46, .pCkBad 0x66].map (Instr.wf false) =
      [false, false, false, false, false] := by decide
theorem test_wf_errAny : (Instr.pErrAny 0x3A).wf true = false := by decide
theorem test_wf_errResync : Instr.pErrResync.wf false = false := by decide
theorem test_wf_recUnsupported : [0x00, 0x01].map (fun t => (Instr.recUnsupported t).wf false) = [false, false] := by
  decide

/-! ### Words written out from the encodings (spec/30_encoding.md R66, R67, R70) -/

/-- Format PSTEP: three bits of `pstate`, then the byte. -/
theorem test_decode_pstep :
    decodeTableWord 16 0b000_00001101 = some (.pInitSkip 0x0D) ∧
    decodeTableWord 16 0b000_00111010 = some .pInitStart ∧
    decodeTableWord 16 0b000_00100000 = some (.pInitBad 0x20) ∧
    decodeTableWord 16 0b001_00111001 = some (.pBcNib 0x39) ∧
    decodeTableWord 16 0b001_00111010 = some (.pBcBad 0x3A) ∧
    decodeTableWord 16 0b010_01100110 = some (.pAddrNib 0x66) ∧
    decodeTableWord 16 0b010_01100111 = some (.pAddrBad 0x67) ∧
    decodeTableWord 16 0b011_00110000 = some (.pRtNib 0x30) ∧
    decodeTableWord 16 0b011_00101111 = some (.pRtBad 0x2F) := by decide

theorem test_decode_pstep_later_states :
    decodeTableWord 16 0b100_01000110 = some (.pDataNib 0x46) ∧
    decodeTableWord 16 0b100_00001010 = some (.pDataBad 0x0A) ∧
    decodeTableWord 16 0b101_01100001 = some (.pCkNib 0x61) ∧
    decodeTableWord 16 0b101_01000000 = some (.pCkBad 0x40) ∧
    decodeTableWord 16 0b110_11111111 = some (.pEndAny 0xFF) ∧
    decodeTableWord 16 0b111_00111010 = some (.pErrAny 0x3A) ∧
    decodeTable true 16 0b111_00111010 = some .pErrResync ∧
    decodeTable true 16 0b111_00111011 = some (.pErrAny 0x3B) := by decide

theorem test_decode_rectype :
    decode false .rectype [0b00000000] = .ok (.recData, []) ∧
    decode false .rectype [0b00000001] = .ok (.recEof, []) ∧
    decode false .rectype [0b00000010] = .ok (.recUnsupported 0x02, []) := by decide

theorem test_decode_rxedge :
    decode false .rxedge [0b01, 0x41] = .ok (.rxIdle, []) ∧
    decode false .rxedge [0b10, 0x41] = .ok (.rxPush 0x41, []) ∧
    decode false .rxedge [0b11, 0x41] = .ok (.rxDrop 0x41, []) := by decide

theorem test_decode_coreedge :
    decode false .coreedge [0b1011] = .ok (.coreClr, []) ∧
    decode false .coreedge [0b0001] = .ok (.corePumpMove, []) ∧
    decode false .coreedge [0b0000] = .ok (.corePumpDone, []) ∧
    decode false .coreedge [0b0011] = .ok (.coreParse, []) ∧
    decode false .coreedge [0b0010] = .ok (.coreParseNop, []) ∧
    decode false .coreedge [0b0101] = .ok (.coreArm, []) ∧
    decode false .coreedge [0b0111] = .error .unreachablePhase := by decide

theorem test_decode_txedge :
    decode false .txedge [0b110] = .ok (.txSend, []) ∧
    decode false .txedge [0b111] = .ok (.txPark, []) ∧
    decode false .txedge [0b101] = .ok (.txIdle, []) ∧
    decode false .txedge [0b011] = .ok (.txIdle, []) := by decide

theorem test_decode_qop_rst :
    decode false (.qop .stqEnq) [0b10, 0x3A] = .ok (.stqEnq 0x3A, []) ∧
    decode false (.qop .stqDeq) [0b11] = .ok (.stqDeq, []) ∧
    decode false (.qop .aqPush) [0b10, 0, 0x41] = .ok (.aqPush .rxq 0x41, []) ∧
    decode false (.qop .aqPop) [0b11, 1] = .ok (.aqPop .txq, []) ∧
    decode false (.qop .stqDeq) [0b01] = .error .noRequest ∧
    decode false .rst [0b1] = .ok (.reset, []) := by decide

/-! ### States for the tests -/

/-- A small configuration: `RX_AW = 2`, `TX_AW = 2`, `ST_DEPTH = 3`, `PAGE_SIZE = 255`. -/
def small : Config :=
  { Config.default with
    rxAw := 2, txAw := 2, stDepth := 3, pageSize := 255
    rxAw_pos := by decide, txAw_pos := by decide, stDepth_pos := by decide, pageSize_min := by decide }

/-- The small configuration with `RESYNC_ON_COLON` and `ERR_ECHO`. -/
def smallResync : Config := { small with resyncOnColon := true, errEcho := true }

/-- The state after reset in the small configuration. -/
def fresh : State := { State.reset with cfg := small }

/-- A FIFO of `AW = 2` with four bytes, filled to capacity, not yet seen by the read side (V20, row 4). -/
def fullFifo : AsyncFifo :=
  { AsyncFifo.cleared ⟨.powerOn, [(0, 0x41), (1, 0x42), (2, 0x43), (3, 0x44)]⟩ with
    wbin := 4, wgray := 0b110, wgrayPrev := 0b010, wgrayFresh := true }

/-- The same FIFO as the read side sees it two edges later (V20, row 7). -/
def seenFifo : AsyncFifo := { fullFifo with wq1 := 0b110, wq2 := 0b110, wgrayFresh := false }

/-- A staging queue of depth 3 with two bytes, `in = 0` wrapped. -/
def twoStaged : StagingQueue := ⟨⟨.powerOn, [(1, 0x3A), (2, 0x30)]⟩, 0, 1, 2⟩

/-- A state in the middle of a record: bytes in every queue, the parser in Address after its third nibble, the
transmitter asked to arm, and a core edge placed next. -/
def busy : State :=
  { fresh with
    rxq := fullFifo
    txq := { seenFifo with wgrayFresh := false }
    stq := twoStaged
    tr := ⟨true, true, true, false, false, 0x00, false, true⟩
    phase := .parse
    pstate := .address
    pend := { PendingRecord.initial with
      bcRem := 0, addrRem := 1, acc := 0x70, nibPhase := true, recLen := 0x02 }
    cksum := 0x14
    page := ⟨0x1200, 0, ⟨.zero, []⟩⟩
    pending := [.core false true false] }

/-- The parser in the state `st` with the registers `p`. -/
def parsing (st : PState) (p : PendingRecord) : State := { fresh with pstate := st, pend := p }

/-- `fresh` with the parser wedged in Error with cause `c`. -/
def wedged (c : Cause) : State := { fresh with pstate := .error, errCause := some c }

/-- The low nibble is due. -/
def lowDue : PendingRecord := { PendingRecord.initial with acc := 0x50, nibPhase := true }

/-- A part of the next state. -/
def after {α : Type} (o : Out) (f : State → α) : Option α :=
  match o with
  | .next t => some (f t)
  | .fault _ => none
  | .refused _ => none

/-! ### One step of each instruction, expected values from spec/95_test_vectors.md and the examples of the rules -/

/-- V10. -/
theorem test_hexDecode : [0x2F, 0x30, 0x39, 0x3A, 0x40, 0x41, 0x46, 0x47, 0x60, 0x61, 0x66, 0x67].map hexDecode =
    [(false, 0xF), (true, 0), (true, 9), (false, 0xF), (false, 0xF), (true, 10), (true, 15), (false, 0xF),
     (false, 0xF), (true, 10), (true, 15), (false, 0xF)] := by decide
/-- V10: high nibble D, then low nibble 2. -/
theorem test_takeNibble :
    after (exec (.takeNibble 0xD) fresh) (fun t => (t.pend.acc, t.pend.nibPhase)) = some (0xD0, true) ∧
    after (exec (.takeNibble 0x2) (parsing .init { lowDue with acc := 0xD0 })) (fun t => t.ret) =
      some (.taken (some 0xD2)) := by decide
/-- V30, V31, V32. -/
theorem test_init_rows :
    after (exec (.pInitSkip 0x0A) fresh) (fun t => t.pstate) = some .init ∧
    after (exec .pInitStart busy) (fun t => (t.pstate, t.page.addr, t.cksum, t.pend.bcRem)) =
      some (.byteCount, 0x0000, 0x00, 2) ∧
    after (exec (.pInitBad 0x20) fresh) (fun t => (t.pstate, t.errCause, t.txq.mem.cells)) =
      some (.error, some .framing, [(0, 0x3F)]) := by decide
/-- V34, after `:10`; V36, `:1G`. -/
theorem test_byteCount_rows :
    after (exec (.pBcNib 0x30) (parsing .byteCount { lowDue with bcRem := 1, acc := 0x10 }))
      (fun t => (t.pstate, t.pend.recLen, t.cksum, t.pend.bcRem)) = some (.address, 0x10, 0x10, 0) ∧
    after (exec (.pBcBad 0x47) (parsing .byteCount { lowDue with bcRem := 1 }))
      (fun t => (t.pstate, t.pend.bcRem)) = some (.error, 1) := by decide
/-- The second address nibble makes the high byte, the fourth the low byte (R142's example, V42). -/
theorem test_address_rows :
    after (exec (.pAddrNib 0x31) (parsing .address { lowDue with addrRem := 3, acc := 0x00 }))
      (fun t => (t.pstate, t.page.addr, t.pend.addrRem)) = some (.address, 0x0100, 2) ∧
    after (exec (.pAddrNib 0x34) { busy with pend := { busy.pend with acc := 0x30 } })
      (fun t => (t.pstate, t.page.addr, t.pend.addrRem)) = some (.recordType, 0x1234, 0) ∧
    after (exec (.pAddrBad 0x3A) busy) (fun t => (t.pstate, t.errCause)) = some (.error, some .framing) := by decide
/-- V42, V44, V45. -/
theorem test_recordType_rows :
    after (exec (.pRtNib 0x30) (parsing .recordType { lowDue with acc := 0x00 })) (fun t => t.pstate) =
      some .checksum ∧
    after (exec (.pRtNib 0x31) (parsing .recordType { lowDue with acc := 0x00 })) (fun t => t.pstate) =
      some .endState ∧
    after (exec (.pRtNib 0x34) (parsing .recordType { lowDue with acc := 0x00 }))
      (fun t => (t.pstate, t.errCause, t.pend.recType)) = some (.error, some .recType, 0x04) ∧
    after (exec (.pRtBad 0x0D) fresh) (fun t => t.errCause) = some (some .framing) := by decide
theorem test_record_kinds :
    after (exec .recData (parsing .recordType { lowDue with recLen := 0x10 })) (fun t => t.pstate) = some .data ∧
    after (exec .recEof fresh) (fun t => t.pstate) = some .endState ∧
    after (exec (.recUnsupported 0x02) fresh) (fun t => t.txq.mem.cells) = some [(0, 0x23)] := by decide
/-- V35, its second input, and V36. -/
theorem test_data_rows :
    after (exec (.pDataNib 0x31)
        { parsing .data { lowDue with recLen := 0x10, acc := 0x20 } with cksum := 0x11 })
      (fun t => (t.pstate, t.page.len, t.page.data.read .pgData 0, t.cksum)) = some (.data, 1, 0x21, 0x32) ∧
    after (exec (.pDataBad 0x0A) fresh) (fun t => t.errCause) = some (some .framing) := by decide
/-- V40: `AA` is good, `AB` is not. -/
theorem test_checksum_rows :
    after (exec (.pCkNib 0x41) { parsing .checksum { lowDue with acc := 0xA0 } with cksum := 0x56 })
      (fun t => (t.pstate, t.commitValid, t.cksum)) = some (.init, true, 0x00) ∧
    after (exec (.pCkNib 0x42) { parsing .checksum { lowDue with acc := 0xA0 } with cksum := 0x56 })
      (fun t => (t.pstate, t.errCause, t.cksum, t.commitValid)) = some (.error, some .checksum, 0x01, false) ∧
    after (exec (.pCkBad 0x0D) fresh) (fun t => t.errCause) = some (some .framing) := by decide
/-- V45. -/
theorem test_end_row :
    after (exec (.pEndAny 0x46) (parsing .endState PendingRecord.initial)) (fun t => (t.pstate, t.pend.ckRem)) =
      some (.endState, 1) ∧
    after (exec (.pEndAny 0x3A) (parsing .endState { PendingRecord.initial with ckRem := 1 }))
      (fun t => (t.pstate, t.pend.ckRem, t.eofValid, t.txq.mem.cells)) = some (.init, 2, true, [(0, 0x2E)]) := by
  decide
/-- V37, V39, R157's example. -/
theorem test_error_rows :
    after (exec (.pErrAny 0x3A) (wedged .framing)) (fun t => (t.pstate, t.txq.mem.cells)) = some (.error, []) ∧
    after (exec (.pErrAny 0x31) { wedged .framing with cfg := smallResync }) (fun t => t.txq.mem.cells) =
      some [(0, 0x31)] ∧
    after (exec .pErrResync { wedged .checksum with cfg := smallResync }) (fun t => (t.pstate, t.errCause)) =
      some (.byteCount, none) := by decide
/-- V11, rows 3 and 4. -/
theorem test_stqEnq :
    after (exec (.stqEnq 0x31) { fresh with stq := ⟨⟨.powerOn, [(0, 0x3A), (1, 0x30)]⟩, 2, 0, 2⟩ })
      (fun t => (t.stq.inp, t.stq.cnt, t.stq.mem.cells)) = some (0, 3, [(0, 0x3A), (1, 0x30), (2, 0x31)]) ∧
    after (exec (.stqEnq 0x32) { fresh with stq := ⟨⟨.powerOn, [(0, 0x3A), (1, 0x30), (2, 0x31)]⟩, 0, 0, 3⟩ })
      (fun t => (t.ret, t.stq.cnt)) = some (.accepted false, 3) := by decide
/-- V11, rows 8 and 10. -/
theorem test_stqDeq :
    after (exec .stqDeq { fresh with stq := ⟨⟨.powerOn, [(0, 0x33), (1, 0x30), (2, 0x31)]⟩, 1, 2, 2⟩ })
      (fun t => (t.ret, t.stq.out, t.stq.cnt)) = some (.dequeued (some 0x31), 0, 1) ∧
    after (exec .stqDeq fresh) (fun t => (t.ret, t.stq.out)) = some (.dequeued none, 0) := by decide
theorem test_stqLen : after (exec .stqLen busy) (fun t => t.ret) = some (.count 2) := by decide
/-- R93's example, and V20, row 5. -/
theorem test_aqPush :
    after (exec (.aqPush .rxq 0x41) { fresh with rxq := { fresh.rxq with wbin := 3, wgray := 0b010 } })
      (fun t => (t.rxq.wbin, t.rxq.wgray, t.rxq.mem.cells)) = some (4, 0b110, [(3, 0x41)]) ∧
    after (exec (.aqPush .rxq 0x45) busy) (fun t => (t.ret, t.rxq.wbin)) = some (.accepted false, 4) := by decide
/-- R94's example, and V20, row 6. -/
theorem test_aqPop :
    after (exec (.aqPop .rxq)
        { fresh with rxq := { fullFifo with wbin := 0, wgray := 0, rbin := 7, rgray := 0b100, wq2 := 0 } })
      (fun t => (t.ret, t.rxq.rbin, t.rxq.rgray)) = some (.dequeued (some 0x44), 0, 0) ∧
    after (exec (.aqPop .rxq) busy) (fun t => (t.ret, t.rxq.rbin)) = some (.dequeued none, 0) := by decide
/-- V20, row 8. -/
theorem test_aqLen :
    [CountKind.write, .read, .truth].map (fun k => after (exec (.aqLen .rxq k)
      { fresh with rxq := { seenFifo with rbin := 1, rgray := 1 } }) (fun t => t.ret)) =
      [some (.count 4), some (.count 3), some (.count 3)] := by decide
/-- V21, rows 2 and 3: the old value, then the new one. -/
theorem test_aqSync_sample :
    after (exec (.aqSync .rxqRead true) { fresh with rxq := fullFifo })
      (fun t => (t.rxq.wq1, t.rxq.wq2, t.rxq.wgrayFresh)) = some (0b010, 0, false) ∧
    after (exec (.sample .rxqWgray false) { fresh with rxq := fullFifo }) (fun t => t.ret) =
      some (.sampled 0b110) := by decide
/-- V20, rows 4 and 5, as receive edges (V23). -/
theorem test_receive_operations :
    after (exec (.rxPush 0x44) { fresh with rxq := { fresh.rxq with wbin := 3, wgray := 0b010 } })
      (fun t => (t.rxq.wbin, rxqFull t)) = some (4, true) ∧
    after (exec (.rxDrop 0x45) busy) (fun t => t.trace) = some [.drop .rxq 0x45] ∧
    after (exec .rxIdle busy) (fun t => t.rxq.wbin) = some 4 ∧
    after (exec (.rxEdge true 0x45 false) busy) (fun t => (t.rxq.wbin, t.trace)) =
      some (4, [.drop .rxq 0x45]) := by decide
/-- V24, its rows 4, 5 and 8. -/
theorem test_transmit_operations :
    after (exec .txSend busy) (fun t => (t.tr.txData, t.tr.txValid, t.txq.rbin)) = some (0x41, true, 1) ∧
    after (exec .txPark { fresh with tr := { fresh.tr with txIe := true } }) (fun t => t.tr.txIe) = some false ∧
    after (exec .txIdle { fresh with tr := { fresh.tr with armQ2 := true } }) (fun t => t.tr.txIe) = some true := by
  decide
/-- V24, its last row: set wins over clear. -/
theorem test_txEdge_armSync :
    after (exec (.txEdge true false false) { fresh with tr := { fresh.tr with armQ2 := true, txIe := true } })
      (fun t => (t.tr.txIe, t.tr.txValid, t.tr.armQ2)) = some (true, false, false) ∧
    after (exec (.armSync true) busy) (fun t => (t.tr.armQ1, t.tr.armQ2)) = some (false, true) := by decide
/-- V25. -/
theorem test_coreArm :
    after (exec .coreArm { fresh with txq := { fresh.txq with wbin := 0, rq2 := 0b110 } })
      (fun t => (t.tr.armReq, t.phase)) = some (true, .pump) ∧
    after (exec .coreArm { fresh with txq := { fresh.txq with wbin := 1, wgray := 1, rq2 := 1 } })
      (fun t => t.tr.armReq) = some false := by decide
/-- R125's example, and its case of a full staging queue (P6). -/
theorem test_pumpMove :
    after (exec .corePumpMove { fresh with rxq := seenFifo })
      (fun t => (t.rxq.rbin, t.stq.mem.cells, t.stq.cnt, t.phase)) = some (1, [(0, 0x41)], 1, .pump) ∧
    after (exec .corePumpMove { fresh with rxq := seenFifo, stq := { twoStaged with cnt := 3 } })
      (fun t => (t.rxq.rbin, t.stq.cnt, t.trace)) = some (1, 3, [.dropStaging 0x41]) := by decide
/-- V54: the second core edge after reset; R188's example. -/
theorem test_core_phases :
    after (exec .corePumpDone fresh) (fun t => t.phase) = some .parse ∧
    after (exec .coreParseNop fresh) (fun t => t.phase) = some .arm ∧
    after (exec .coreParse { fresh with stq := twoStaged }) (fun t => (t.stq.cnt, t.pstate, t.phase)) =
      some (1, .byteCount, .arm) := by decide
/-- V53, and the pulse clearing of R185. -/
theorem test_coreClr_coreEdge :
    after (exec .coreClr { wedged .checksum with page := ⟨0, 1, ⟨.zero, [(0, 0x55)]⟩⟩ })
      (fun t => (t.pstate, t.errCause, t.page.len, t.page.data.read .pgData 0)) = some (.init, none, 0, 0x55) ∧
    after (exec (.coreEdge false false false) { fresh with commitValid := true, eofValid := true })
      (fun t => (t.commitValid, t.eofValid, t.phase)) = some (false, false, .parse) := by decide
theorem test_parserStep : after (exec (.parserStep 0x3A) fresh) (fun t => t.pstate) = some .byteCount := by decide
theorem test_record_helpers :
    after (exec .resetPending busy) (fun t => t.pend) = some ⟨2, 4, 2, 2, 0x00, false, 0x00, 0x00⟩ ∧
    after (exec .startRecord (wedged .framing)) (fun t => (t.errCause, t.page.data.read .pgData 7)) =
      some (none, 0x00) ∧
    after (exec .beginPage { busy with page := ⟨0x1200, 1, ⟨.zero, [(0, 0x55)]⟩⟩ })
      (fun t => (t.page.addr, t.page.len, t.page.data.read .pgData 0)) = some (0x0000, 0, 0x00) := by decide
/-- V41 (a). -/
theorem test_checksum_adder :
    after (exec (.cksumAdd 0x01) { fresh with cksum := 0xFF }) (fun t => t.cksum) = some 0x00 ∧
    after (exec (.cksumAdd 0x09) { fresh with cksum := 0xCB }) (fun t => t.cksum) = some 0xD4 ∧
    after (exec .cksumClear busy) (fun t => t.cksum) = some 0x00 := by decide
/-- R175's and R176's examples. -/
theorem test_page :
    after (exec (.appendByte 0x01) { fresh with page := ⟨0, 15, ⟨.zero, []⟩⟩ })
      (fun t => (t.page.len, t.page.data.read .pgData 15)) = some (16, 0x01) ∧
    after (exec .commit { fresh with page := ⟨0x0100, 1, ⟨.zero, [(0, 0x21)]⟩⟩ }) (fun t => t.trace) =
      some [.commit 0x0100 [0x21] 1] := by decide
theorem test_errors :
    after (exec (.enterError .checksum) fresh) (fun t => (errCauseO t, pstateO t, t.txq.mem.cells)) =
      some (2, 7, [(0, 0x21)]) ∧
    after (exec (.diagPush 0x2E) { fresh with txq := fullFifo }) (fun t => t.trace) = some [.drop .txq 0x2E] := by
  decide
/-- V54. -/
theorem test_reset :
    after (exec .reset busy) (fun t => (rxqFull t, t.tr.txIe, pstateO t, errCauseO t, commitAddr t, commitLen t)) =
      some (false, false, 0, 0, 0x0000, 0) := by decide

/-! ### A word placed for the next step is what that step runs -/

theorem test_withFetchWord_init :
    after (step (State.reset.withFetchWord 16 0b000_00111010)) (fun t => (t.pstate, t.phase)) =
      some (.byteCount, .arm) := by decide
theorem test_withFetchWord_core :
    after (step (State.reset.withFetchWord 8 0b0000)) (fun t => t.phase) = some .parse ∧
    after (step (State.reset.withFetchWord 8 0b110)) (fun t => t.tr.txData) = some 0x00 := by decide
theorem test_pgRdata : pgRdata 0x00 { fresh with page := ⟨0, 1, ⟨.zero, [(0, 0x55)]⟩⟩ } = 0x55 := by decide
theorem test_core_reset : Sys2Proof.core.reset = State.reset := rfl

/-! ### Witnesses: concrete states and operands that meet the hypotheses of the statements -/

/-- `busy` meets the invariant. -/
theorem busy_inv : busy.Inv where
  rxq := ⟨by decide, by decide, by decide, by decide, by decide⟩
  txq := ⟨by decide, by decide, by decide, by decide, by decide⟩
  stq := ⟨by decide, by decide, by decide, by decide, by decide⟩
  parser := ⟨⟨by decide, by decide, by decide, by decide, by decide, by decide⟩,
    by decide, by decide, by decide, by decide, by decide, by decide⟩
  arm := ⟨by decide, by decide⟩

/-- A run that is over: one byte has gone through each queue and the parser is wedged in Error. -/
def finished : State :=
  { wedged .framing with
    rxq := { AsyncFifo.cleared ⟨.powerOn, [(0, 0x58)]⟩ with
      wbin := 1, wgray := 1, rq1 := 1, rq2 := 1, rbin := 1, rgray := 1, wq1 := 1, wq2 := 1 }
    txq := { AsyncFifo.cleared ⟨.powerOn, [(0, 0x3F)]⟩ with
      wbin := 1, wgray := 1, rq1 := 1, rq2 := 1, rbin := 1, rgray := 1, wq1 := 1, wq2 := 1 }
    stq := ⟨⟨.powerOn, [(0, 0x58)]⟩, 1, 1, 0⟩
    phase := .arm }

theorem finished_inv : finished.Inv where
  rxq := ⟨by decide, by decide, by decide, by decide, by decide⟩
  txq := ⟨by decide, by decide, by decide, by decide, by decide⟩
  stq := ⟨by decide, by decide, by decide, by decide, by decide⟩
  parser := ⟨trivial, by decide, by decide, by decide, by decide, by decide, by decide⟩
  arm := ⟨by decide, by decide⟩

theorem witness_HexDecode : (0x39 : Nat) = (0x39 : Byte).toNat := by decide
theorem witness_TakeNibble : fresh.pend.nibPhase = false ∧ busy.pend.nibPhase = true := by decide
theorem witness_InitRows :
    ((0x0D : Byte) = 0x0D ∨ (0x0D : Byte) = 0x0A) ∧ ((0x0A : Byte) = 0x0D ∨ (0x0A : Byte) = 0x0A) ∧
    ((0x3B : Byte) ≠ 0x3A ∧ (0x3B : Byte) ≠ 0x0D ∧ (0x3B : Byte) ≠ 0x0A) := by decide
/-- Also the witness of the byte-count, record-type and checksum rows: a high nibble, a low nibble, no digit. -/
theorem witness_NibbleRows :
    (isHex 0x30 = true ∧ fresh.pend.nibPhase = false) ∧ (isHex 0x66 = true ∧ busy.pend.nibPhase = true) ∧
    isHex 0x67 = false := by decide
theorem witness_AddressRows :
    (isHex 0x46 = true ∧ busy.pend.nibPhase = true ∧ busy.pend.addrRem = 1) ∧
    (lowDue.nibPhase = true ∧ (parsing .address { lowDue with addrRem := 3 }).pend.addrRem = 3) ∧
    (lowDue.nibPhase = true ∧ lowDue.addrRem ≠ 3 ∧ lowDue.addrRem ≠ 1) := by decide
/-- The type bytes 0x00, 0x01, 0x02 and 0xFF, each completed by a HEX character. -/
theorem witness_RecordTypeRows :
    isHex 0x30 = true ∧ (0x00 : Byte).extractLsb' 4 4 ++ nibbleOf 0x30 = (0x00 : Byte) ∧
    isHex 0x31 = true ∧ (0x00 : Byte).extractLsb' 4 4 ++ nibbleOf 0x31 = (0x01 : Byte) ∧
    isHex 0x32 = true ∧ (0x00 : Byte).extractLsb' 4 4 ++ nibbleOf 0x32 = (0x02 : Byte) ∧
    isHex 0x46 = true ∧ (0xF0 : Byte).extractLsb' 4 4 ++ nibbleOf 0x46 = (0xFF : Byte) := by decide
theorem witness_RecordKinds :
    fresh.pend.recLen = 0x00 ∧ busy.pend.recLen ≠ 0x00 ∧ ((0x02 : Byte) ≠ 0x00 ∧ (0x02 : Byte) ≠ 0x01) := by decide
/-- The last byte a page has room for, and a page that is full (`PAGE_SIZE = 255`). -/
theorem witness_DataRows :
    (isHex 0x31 = true ∧ busy.pend.nibPhase = true ∧ 254 < small.pageSize ∧
      Memory.wf small.pageSize ⟨.zero, [(253, 0x01)]⟩ = true) ∧
    small.pageSize ≤ 255 := by decide
theorem witness_ChecksumRows :
    (lowDue.nibPhase = true ∧ isHex 0x30 = true ∧ (0xB0 : Byte) + (lowDue.acc.extractLsb' 4 4 ++ nibbleOf 0x30) = 0x00) ∧
    (isHex 0x31 = true ∧ (0xB0 : Byte) + (lowDue.acc.extractLsb' 4 4 ++ nibbleOf 0x31) ≠ 0x00) := by decide
theorem witness_EndRow : fresh.pend.ckRem ≠ 1 ∧ ({ fresh.pend with ckRem := 1 } : PendingRecord).ckRem = 1 := by
  decide
theorem witness_ErrorRows :
    ((small.resyncOnColon = false ∨ (0x3A : Byte) ≠ 0x3A) ∧ small.errEcho = false) ∧
    ((smallResync.resyncOnColon = false ∨ (0x3B : Byte) ≠ 0x3A) ∧ smallResync.errEcho = true) ∧
    smallResync.resyncOnColon = true := by decide
theorem witness_ParserStep :
    (parsing .data PendingRecord.initial).pstate = .data ∧
    ((parsing .data PendingRecord.initial).pstate = .data →
      (parsing .data PendingRecord.initial).page.len < (parsing .data PendingRecord.initial).cfg.pageSize) := by
  decide
/-- A full queue, one slot left with the cursor at the last slot, and a cursor outside the array. -/
theorem witness_StagingEnqueue :
    (3 : Nat) = small.stDepth ∧ (2 < small.stDepth ∧ Memory.wf small.stDepth ⟨.powerOn, [(0, 0x3A)]⟩ = true) ∧
    ((2 : Nat) ≠ small.stDepth ∧ small.stDepth ≤ 3) := by decide
theorem witness_StagingDequeue :
    fresh.stq.cnt = 0 ∧ (busy.stq.cnt ≠ 0 ∧ busy.stq.out < busy.cfg.stDepth) ∧
    (busy.stq.cnt ≠ 0 ∧ busy.cfg.stDepth ≤ ({ busy.stq with out := 3 } : StagingQueue).out) := by decide
theorem witness_FifoPush :
    (fullFifo = busy.fifo .rxq ∧ fullFifo.wgray = fullFifo.rq2 ^^^ (3 <<< (busy.aw .rxq - 1))) ∧
    (fresh.rxq = fresh.fifo .rxq ∧ fresh.rxq.wgray ≠ fresh.rxq.rq2 ^^^ (3 <<< (fresh.aw .rxq - 1)) ∧
      fresh.rxq.mem.wf (2 ^ fresh.aw .rxq) = true) := by decide
theorem witness_FifoPop :
    (fullFifo = busy.fifo .rxq ∧ fullFifo.rgray = fullFifo.wq2) ∧
    (seenFifo = busy.fifo .txq ∧ seenFifo.rgray ≠ seenFifo.wq2) := by decide
theorem witness_FifoCounts : seenFifo = busy.fifo .txq ∧ 3 = busy.aw .txq + 1 := by decide
theorem witness_Receive :
    (fresh.rxq.full fresh.cfg.rxAw = false ∧ fresh.rxq.mem.wf (2 ^ fresh.cfg.rxAw) = true) ∧
    busy.rxq.full busy.cfg.rxAw = true := by decide
theorem witness_ReceiveEdge :
    (0 = (if busy.rxq.rgrayFresh = true ∧ true = true then busy.rxq.rgrayPrev else busy.rxq.rgray)) ∧
    busy.rxq.full busy.cfg.rxAw = true ∧ fresh.rxq.full fresh.cfg.rxAw = false := by decide
theorem witness_Transmit : busy.txq.empty = false ∧ fresh.txq.empty = true := by decide
theorem witness_TransmitEdge :
    (true && fresh.tr.txIe && !fresh.txq.empty) = false ∧ (true && busy.tr.txIe && !busy.txq.empty) = true := by
  decide
theorem witness_ArmRequests :
    (true = (busy.txq.wbin % 2 ^ (busy.cfg.txAw + 1) != gray2bin (busy.cfg.txAw + 1) busy.txq.rq2) ∧
      busy.tr.armReq = true) ∧
    (false = (finished.txq.wbin % 2 ^ (finished.cfg.txAw + 1) != gray2bin (finished.cfg.txAw + 1) finished.txq.rq2) ∧
      ({ finished.tr with armReq := true } : Transport).armReq ≠ false) := by decide
theorem witness_PumpMoves :
    (seenFifo.empty = false ∧ ({ twoStaged with cnt := 3 } : StagingQueue).cnt = small.stDepth) ∧
    (seenFifo.empty = false ∧ twoStaged.cnt < small.stDepth ∧ twoStaged.inp < small.stDepth ∧
      twoStaged.mem.wf small.stDepth = true) ∧
    fresh.rxq.empty = true := by decide
theorem witness_ParseConsumes :
    busy.stq.cnt ≠ 0 ∧ busy.stq.out < busy.cfg.stDepth ∧
    (busy.pstate = .data → busy.page.len < busy.cfg.pageSize) := by decide
theorem witness_CoreEdge :
    busy.stq.inp < busy.cfg.stDepth ∧ busy.stq.out < busy.cfg.stDepth ∧
    (busy.pstate = .data → busy.page.len < busy.cfg.pageSize) := by decide
theorem witness_PageAppend :
    (254 < small.pageSize ∧ Memory.wf small.pageSize ⟨.zero, [(253, 0x01)]⟩ = true) ∧ small.pageSize ≤ 255 := by
  decide
theorem witness_Diagnostic :
    fullFifo.full small.txAw = true ∧
    (fresh.txq.full small.txAw = false ∧ fresh.txq.mem.wf (2 ^ small.txAw) = true) := by decide
theorem witness_Step :
    busy.pending = .core false true false :: [] ∧
    decode busy.cfg.resyncOnColon (fetchFrame (.core false true false) { busy with pending := [] }).1
      (fetchFrame (.core false true false) { busy with pending := [] }).2 = .ok (.coreParse, []) ∧
    fresh.pending = [] := by decide
/-- The free environment's choice for `fresh`, whatever it is, selects an instruction. -/
theorem witness_Step_free :
    ∃ i : Instr, decode fresh.cfg.resyncOnColon
      (fetchFrame (Config.environment fresh.envTick) { fresh with envTick := fresh.envTick + 1 }).1
      (fetchFrame (Config.environment fresh.envTick) { fresh with envTick := fresh.envTick + 1 }).2 = .ok (i, []) := by
  cases Config.environment fresh.envTick with
  | rx v d l => cases v <;> exact ⟨_, rfl⟩
  | core c l1 l2 => cases c <;> exact ⟨_, rfl⟩
  | tx r l1 l2 => cases r <;> exact ⟨_, rfl⟩
  | rst => exact ⟨_, rfl⟩
theorem witness_Selector : 0x73A < 2048 := by decide
theorem witness_DecodeOfEncode :
    Instr.wf false (.pErrAny 0x3A) = true ∧ encode (.pErrAny 0x3A) = some (.pstep, [0x3A, 0x07]) := by decide
theorem witness_Decoded : decode true .pstep [0x3A, 0x07, 0x55] = .ok (.pErrResync, [0x55]) := by decide
/-- The last pointer value, from which the pointer wraps. -/
theorem witness_Gray : 1 ≤ 3 ∧ 7 < 2 ^ 3 := by decide
theorem witness_Flags : 1 ≤ small.rxAw ∧ fullFifo.Coded small.rxAw := by decide
theorem witness_FifoInv : 1 ≤ busy.cfg.rxAw ∧ (busy.fifo .rxq).Inv (busy.aw .rxq) := ⟨by decide, busy_inv.rxq⟩
theorem witness_StagingInv : busy.stq.Inv busy.cfg.stDepth := busy_inv.stq
/-- One step for each clause of the rule: a push, a pump, a parse that pushes a diagnostic, a send. -/
theorem witness_OneWriter :
    after (stepWith (.rx true 0x41 false) fresh) (fun t => decide (t.rxq.wbin ≠ fresh.rxq.wbin)) = some true ∧
    after (stepWith (.core false false false) { fresh with rxq := seenFifo }) (fun t => t.rxq.rbin) = some 1 ∧
    after (stepWith (.core false false false) { busy with txq := fresh.txq }) (fun t => t.txq.wbin) = some 1 ∧
    after (stepWith (.tx true false false) busy) (fun t => decide (t.txq.rbin ≠ busy.txq.rbin)) = some true := by
  decide
/-- Error left by a reset, by a clear and by a `:`, and not left by another byte. -/
theorem witness_ErrorIsLeft :
    (wedged .framing).pstate = .error ∧
    after (stepWith .rst (wedged .framing)) (fun t => t.pstate) = some .init ∧
    after (stepWith (.core true false false) (wedged .framing)) (fun t => t.pstate) = some .init ∧
    after (stepWith (.core false false false)
      { wedged .framing with cfg := smallResync, stq := twoStaged, phase := .parse }) (fun t => t.pstate) =
      some .byteCount ∧
    after (stepWith (.core false false false) { wedged .framing with stq := twoStaged, phase := .parse })
      (fun t => t.pstate) = some .error := by decide
/-- An edge that commits, an edge that ends an End-Of-File record, and an edge that does neither. -/
theorem witness_Pulses :
    after (stepWith (.core false false false) { parsing .checksum { lowDue with acc := 0xD0 } with
      cksum := 0x30, phase := .parse, stq := { twoStaged with out := 2, cnt := 1 } }) (fun t => t.commitValid) =
      some true ∧
    after (stepWith (.core false false false) { parsing .endState { PendingRecord.initial with ckRem := 1 } with
      phase := .parse, stq := twoStaged }) (fun t => t.eofValid) = some true ∧
    after (stepWith (.core false false false) busy) (fun t => (t.commitValid, t.eofValid)) =
      some (false, false) := by decide
theorem witness_PageIsHeld :
    (fresh.pstate = .init ∨ fresh.pstate = .error) ∧
    after (stepWith (.core false false false) { fresh with
      page := ⟨0x0100, 1, ⟨.zero, [(0, 0x55)]⟩⟩, stq := twoStaged, phase := .parse })
      (fun t => decide (t.page ≠ ⟨0x0100, 1, ⟨.zero, [(0, 0x55)]⟩⟩)) = some true := by decide
/-- The state after a step, where it completes. -/
def advance (e : EnvStep) (s : State) : State :=
  match stepWith e s with
  | .next t => t
  | .fault _ => s
  | .refused _ => s

/-- A schedule: one byte offered at the first step, then idle edges of the three clocks in turn. -/
def schedule (n : Nat) : EnvStep :=
  if n = 0 then .rx true 0x58 false
  else if n % 3 = 0 then .rx false 0x00 false
  else if n % 3 = 1 then .core false false false
  else .tx true false false

/-- The parser wedged in Error, with a known byte at `tx_data`. -/
def wedgedStart : State := { wedged .framing with tr := { fresh.tr with txData := 0x00 } }

/-- The states of that schedule from the wedged parser, which consumes the byte silently. -/
def scheduled : Nat → State
  | 0 => wedgedStart
  | n + 1 => advance (schedule n) (scheduled n)

/-- The state at the end: the byte has gone through `rxq` and `stq`, and every view has caught up. -/
def consumed : State :=
  { wedgedStart with
    rxq := { AsyncFifo.cleared ⟨.powerOn, [(0, 0x58)]⟩ with
      wbin := 1, wgray := 1, rq1 := 1, rq2 := 1, rbin := 1, rgray := 1, wq1 := 1, wq2 := 1 }
    stq := ⟨⟨.powerOn, [(0, 0x58)]⟩, 1, 1, 0⟩ }

/-- The phase `r` steps after the end: each lasts three edges, one of every clock. -/
def idlePhase (r : Nat) : Phase := if r % 9 < 3 then .pump else if r % 9 < 6 then .parse else .arm

theorem consumed_step : ∀ r < 9, stepWith (schedule (20 + r)) { consumed with phase := idlePhase r } =
    .next { consumed with phase := idlePhase (r + 1) } := by
  intro r hr
  interval_cases r <;> rfl

theorem schedule_add_nine (n : Nat) (h : n ≠ 0) : schedule (n + 9) = schedule n := by
  simp only [schedule, h, if_false]
  rw [if_neg (by omega), show (n + 9) % 3 = n % 3 by omega]

theorem schedule_mod_nine (r : Nat) : schedule (20 + r) = schedule (20 + r % 9) := by
  have h : ∀ k r, schedule (20 + r + 9 * k) = schedule (20 + r) := by
    intro k r
    induction k with
    | zero => rfl
    | succ k ih => rw [Nat.mul_succ, ← Nat.add_assoc, schedule_add_nine _ (by omega), ih]
  conv_lhs => rw [show 20 + r = 20 + r % 9 + 9 * (r / 9) by omega]
  exact h _ _

/-- From the twentieth state on the schedule goes round the idle phases. -/
theorem consumed_step_all (r : Nat) : stepWith (schedule (20 + r)) { consumed with phase := idlePhase r } =
    .next { consumed with phase := idlePhase (r + 1) } := by
  have h := consumed_step (r % 9) (Nat.mod_lt _ (by decide))
  rw [schedule_mod_nine]
  rw [show idlePhase r = idlePhase (r % 9) by simp [idlePhase],
    show idlePhase (r + 1) = idlePhase (r % 9 + 1) by simp [idlePhase, Nat.add_mod]]
  exact h

theorem scheduled_first : scheduled 20 = consumed := by decide +kernel

theorem scheduled_from (r : Nat) : scheduled (20 + r) = { consumed with phase := idlePhase r } := by
  induction r with
  | zero => exact scheduled_first
  | succ r ih => rw [← Nat.add_assoc, scheduled, ih, advance, consumed_step_all]

theorem scheduled_step (n : Nat) : stepWith (schedule n) (scheduled n) = .next (scheduled (n + 1)) := by
  by_cases h : n < 20
  · interval_cases n <;> rfl
  · obtain ⟨r, rfl⟩ : ∃ r, n = 20 + r := ⟨n - 20, by omega⟩
    rw [scheduled_from, Nat.add_assoc, scheduled_from, consumed_step_all]

/-- The schedule as an execution: all three clocks tick for ever. -/
def exampleRun : Execution where
  states := scheduled
  choices := schedule
  steps := scheduled_step
  fair := by
    intro d n
    cases d with
    | receive => exact ⟨3 * (n + 1), by omega, by simp [schedule, clockOf]⟩
    | core => exact ⟨3 * (n + 1) + 1, by omega, by simp [schedule, clockOf]⟩
    | transmit => exact ⟨3 * (n + 1) + 2, by omega, by simp [schedule, clockOf]⟩

theorem schedule_idle (m : Nat) (h : m ≠ 0) : isIdleInput (schedule m) = true ∧ offeredAt (schedule m) = [] := by
  rw [schedule, if_neg h]
  split
  · exact ⟨rfl, rfl⟩
  · split <;> exact ⟨rfl, rfl⟩

theorem scheduled_first_not_at_rest :
    (List.range 19).all (fun k => !decide ((scheduled (k + 1)).AtRest)) = true := by decide +kernel

theorem scheduled_not_at_rest (m : Nat) (hm : m < 20) (h0 : m ≠ 0) : ¬ (scheduled m).AtRest := by
  have h := List.all_eq_true.mp scheduled_first_not_at_rest (m - 1) (List.mem_range.mpr (by omega))
  rw [show m - 1 + 1 = m by omega] at h
  intro ha
  rw [decide_eq_true ha] at h
  cases h

theorem exampleRun_states (n : Nat) : exampleRun.states n = scheduled n := rfl

theorem exampleRun_at_end : exampleRun.states 20 = consumed := by rw [exampleRun_states, scheduled_first]

/-- The example run over the one-byte input ends at its twentieth state. -/
theorem exampleRun_ends : exampleRun.EndsAt [0x58] 20 := by
  refine ⟨⟨by decide, fun m hm => (schedule_idle m (by omega)).2, ?_⟩, ?_⟩
  · rw [exampleRun_at_end]; decide
  · intro m hm ho
    by_cases h0 : m = 0
    · subst h0; exact absurd ho.allOffered (by decide)
    · exact scheduled_not_at_rest m hm h0 ho.atRest

theorem consumed_inv : consumed.Inv where
  rxq := ⟨by decide, by decide, by decide, by decide, by decide⟩
  txq := ⟨by decide, by decide, by decide, by decide, by decide⟩
  stq := ⟨by decide, by decide, by decide, by decide, by decide⟩
  parser := ⟨trivial, by decide, by decide, by decide, by decide, by decide, by decide⟩
  arm := ⟨by decide, by decide⟩

/-- From the twentieth state on, the sources of all five crossings keep their values. -/
theorem witness_ViewCatchesUp :
    (∀ m, 20 ≤ m → (exampleRun.states m).rxq.wgray = (exampleRun.states 20).rxq.wgray) ∧
    (∀ m, 20 ≤ m → (exampleRun.states m).rxq.rgray = (exampleRun.states 20).rxq.rgray) ∧
    (∀ m, 20 ≤ m → (exampleRun.states m).txq.wgray = (exampleRun.states 20).txq.wgray) ∧
    (∀ m, 20 ≤ m → (exampleRun.states m).txq.rgray = (exampleRun.states 20).txq.rgray) ∧
    (∀ m, 20 ≤ m → (exampleRun.states m).tr.armReq = (exampleRun.states 20).tr.armReq) := by
  have h : ∀ m, 20 ≤ m → exampleRun.states m = { consumed with phase := idlePhase (m - 20) } := by
    intro m hm
    rw [exampleRun_states, ← scheduled_from, show 20 + (m - 20) = m by omega]
  refine ⟨?_, ?_, ?_, ?_, ?_⟩ <;> intro m hm <;> rw [h m hm, h 20 (Nat.le_refl _)]

/-- For the first clause a quiet state with idle inputs of each domain, for the second the example run. -/
theorem witness_FinishedRun :
    (finished.Inv ∧ finished.Quiet ∧ finished.NothingFresh ∧
      isIdleInput (.rx false 0x55 true) = true ∧ isIdleInput (.core false true true) = true ∧
      isIdleInput (.tx true true true) = true) ∧
    (exampleRun.EndsAt [0x58] 20 ∧ (exampleRun.states 20).Inv ∧ (exampleRun.states 20).NothingFresh ∧
      ∀ m, 20 ≤ m → isIdleInput (exampleRun.choices m) = true) :=
  ⟨⟨finished_inv, by decide⟩, exampleRun_ends, by rw [exampleRun_at_end]; exact consumed_inv,
    by rw [exampleRun_at_end]; decide, fun m hm => (schedule_idle m (by omega)).1⟩
/-- V40: `0100000055AA` and `0100000055AB`, with mixed-case digits. -/
theorem witness_DataRecord :
    fresh.pstate = .init ∧ [(0x55 : Byte)].length = (0x01 : Byte).toNat ∧
    hexBytes [0x30, 0x31, 0x30, 0x30, 0x30, 0x30, 0x30, 0x30, 0x35, 0x35, 0x61, 0x41] =
      some (0x01 :: 0x00 :: 0x00 :: 0x00 :: ([0x55] ++ [0xAA])) ∧
    (0x01 : Byte) + 0x00 + 0x00 + 0x00 + byteSum [0x55] + 0xAA = 0x00 ∧
    hexBytes [0x30, 0x31, 0x30, 0x30, 0x30, 0x30, 0x30, 0x30, 0x35, 0x35, 0x41, 0x42] =
      some (0x01 :: 0x00 :: 0x00 :: 0x00 :: ([0x55] ++ [0xAB])) ∧
    (0x01 : Byte) + 0x00 + 0x00 + 0x00 + byteSum [0x55] + 0xAB ≠ 0x00 := by decide
/-- V46 and V44. -/
theorem witness_RecordType :
    fresh.pstate = .init ∧ hexBytes [0x30, 0x32, 0x31, 0x32, 0x33, 0x34, 0x30, 0x31] = some [0x02, 0x12, 0x34, 0x01] ∧
    hexBytes [0x30, 0x32, 0x30, 0x30, 0x30, 0x30, 0x30, 0x34] = some [0x02, 0x00, 0x00, 0x04] ∧
    (0x04 : Byte) ≠ 0x00 ∧ (0x04 : Byte) ≠ 0x01 := by decide
theorem witness_EveryStep : busy.Inv ∧ ∃ t : State, step busy = .next t := ⟨busy_inv, _, rfl⟩
theorem witness_NoStepStops : busy.Inv := busy_inv

end Sys2Proof.Tests
end

