-- ==== Sys2Proof/Proofs/QueueWriters.lean ====
section
/-! PROOFS. Which edge may move which side of the two asynchronous FIFOs (spec/40_bytequeue.md R101). A push leaves the read pointer, a pop leaves the write side, a synchroniser update leaves both; so each side moves only where the fetched operation contains the call, and the control vector says when that is. -/

namespace Sys2Proof.Machine

/-! ### What the FIFO operations leave of the two sides (spec/40_bytequeue.md R93 to R95) -/

@[simp] theorem AsyncFifo.accept_rbin (aw : Nat) (b : Byte) (q : AsyncFifo) : (q.accept aw b).rbin = q.rbin := rfl
@[simp] theorem AsyncFifo.advance_wbin (aw : Nat) (q : AsyncFifo) : (q.advance aw).wbin = q.wbin := rfl
@[simp] theorem AsyncFifo.advance_mem (aw : Nat) (q : AsyncFifo) : (q.advance aw).mem = q.mem := rfl
@[simp] theorem AsyncFifo.syncWrite_wbin (late : Bool) (q : AsyncFifo) : (q.syncWrite late).wbin = q.wbin := rfl
@[simp] theorem AsyncFifo.syncWrite_rbin (late : Bool) (q : AsyncFifo) : (q.syncWrite late).rbin = q.rbin := rfl
@[simp] theorem AsyncFifo.syncWrite_mem (late : Bool) (q : AsyncFifo) : (q.syncWrite late).mem = q.mem := rfl
@[simp] theorem AsyncFifo.syncRead_wbin (late : Bool) (q : AsyncFifo) : (q.syncRead late).wbin = q.wbin := rfl
@[simp] theorem AsyncFifo.syncRead_rbin (late : Bool) (q : AsyncFifo) : (q.syncRead late).rbin = q.rbin := rfl
@[simp] theorem AsyncFifo.syncRead_mem (late : Bool) (q : AsyncFifo) : (q.syncRead late).mem = q.mem := rfl

/-! ### When an edge fetches an operation that calls a queue (spec/30_encoding.md R70) -/

/-- Without `rx_valid` a receive edge fetches `RX.IDLE`, whether or not `rxq` is full. -/
theorem fetch_rx_not_valid (d : Byte) (l : Bool) (s : State) : fetch (.rx false d l) s = .ok (.rxIdle, []) := by
  cases hf : s.rxq.full s.cfg.rxAw <;>
    simp [fetch, fetchFrame, rxVector, hf, bit, decode, decodeRxVector, Except.map]

/-- Without `tx_ready` a transmit edge fetches `TX.IDLE`, whatever `tx_ie` and the view of `txq` are. -/
theorem fetch_tx_not_ready (l l' : Bool) (s : State) : fetch (.tx false l l') s = .ok (.txIdle, []) := by
  cases hi : s.tr.txIe <;> cases he : s.txq.empty <;>
    simp [fetch, fetchFrame, txVector, hi, he, bit, decode, decodeTxVector, Except.map]

theorem fetch_core_clr (l l' : Bool) (s : State) : fetch (.core true l l') s = .ok (.coreClr, []) := by
  cases hp : s.phase <;> cases hc : coreCondition s <;>
    simp [fetch, fetchFrame, coreVector, hp, hc, phaseCode, bit, decode, decodeCoreVector, Except.map]

theorem fetch_core_pump {s : State} (hp : s.phase = .pump) (l l' : Bool) :
    fetch (.core false l l') s = .ok (if s.rxq.empty then .corePumpDone else .corePumpMove, []) := by
  cases he : s.rxq.empty <;>
    simp [fetch, fetchFrame, coreVector, coreCondition, hp, he, phaseCode, bit, decode, decodeCoreVector, Except.map]

theorem fetch_core_parse {s : State} (hp : s.phase = .parse) (l l' : Bool) :
    fetch (.core false l l') s = .ok (if s.stqEmpty then .coreParseNop else .coreParse, []) := by
  cases he : s.stqEmpty <;>
    simp [fetch, fetchFrame, coreVector, coreCondition, hp, he, phaseCode, bit, decode, decodeCoreVector, Except.map]

theorem fetch_core_arm {s : State} (hp : s.phase = .arm) (l l' : Bool) :
    fetch (.core false l l') s = .ok (.coreArm, []) := by
  simp [fetch, fetchFrame, coreVector, coreCondition, hp, phaseCode, bit, decode, decodeCoreVector, Except.map]

/-- Only the PUMP row of the vector selects `CORE.PUMP_MOVE`, the one core operation that pops `rxq`. -/
theorem phase_of_fetch_pumpMove {c l l' : Bool} {s : State} {rest : List Byte}
    (h : fetch (.core c l l') s = .ok (.corePumpMove, rest)) : c = false ∧ s.phase = .pump := by
  cases c with
  | true => simp [fetch_core_clr] at h
  | false =>
    cases hp : s.phase with
    | pump => exact ⟨rfl, rfl⟩
    | parse => rw [fetch_core_parse hp] at h; split at h <;> simp at h
    | arm => simp [fetch_core_arm hp] at h

/-- Only the PARSE row of the vector selects `CORE.PARSE`, the one core operation that pushes into `txq`. -/
theorem phase_of_fetch_parse {c l l' : Bool} {s : State} {rest : List Byte}
    (h : fetch (.core c l l') s = .ok (.coreParse, rest)) : c = false ∧ s.phase = .parse := by
  cases c with
  | true => simp [fetch_core_clr] at h
  | false =>
    cases hp : s.phase with
    | pump => rw [fetch_core_pump hp] at h; split at h <;> simp at h
    | parse => exact ⟨rfl, rfl⟩
    | arm => simp [fetch_core_arm hp] at h

/-! ### When an edge leaves a queue to its synchronisers -/

/-- A core operation other than `CORE.PUMP_MOVE` leaves `rxq`, and one other than `CORE.PARSE` leaves `txq`. -/
theorem core_operation_keeps_queues {i : Instr} {s u : State}
    (hi : i = .coreClr ∨ i = .corePumpMove ∨ i = .corePumpDone ∨ i = .coreParse ∨ i = .coreParseNop ∨ i = .coreArm)
    (hu : exec i s = .next u) :
    (i = .corePumpMove ∨ u.rxq = s.rxq) ∧ (i = .coreParse ∨ u.txq = s.txq) := by
  rcases hi with rfl | rfl | rfl | rfl | rfl | rfl
  · cases hu; simp [clearParser, cksumClear, resetPending]
  · exact ⟨.inl rfl, .inr (pumpMove_reach (toOut_eq_next hu)).1⟩
  · cases hu; exact ⟨.inr rfl, .inr rfl⟩
  · exact ⟨.inr (coreParse_reach (toOut_eq_next hu)).rxq, .inl rfl⟩
  · cases hu; exact ⟨.inr rfl, .inr rfl⟩
  · cases hu; simp only [coreArm, armRequest]; split <;> exact ⟨.inr rfl, .inr rfl⟩

/-- Outside PUMP a core edge only synchronises `rxq`, and outside PARSE it only synchronises `txq`. -/
theorem stepWith_core_queues {c l l' : Bool} {s t : State} (h : stepWith (.core c l l') s = .next t) :
    ((c = false ∧ s.phase = .pump) ∨ t.rxq = s.rxq.syncRead l) ∧
    ((c = false ∧ s.phase = .parse) ∨ t.txq = s.txq.syncWrite l') := by
  obtain ⟨i, rest, u, hf, hu, rfl⟩ := stepWith_cases h
  obtain ⟨hr, ht⟩ := core_operation_keeps_queues (fetch_core_cases hf) hu
  constructor
  · rcases hr with rfl | hr
    · exact .inl (phase_of_fetch_pumpMove hf)
    · exact .inr (congrArg (·.syncRead l) hr)
  · rcases ht with rfl | ht
    · exact .inl (phase_of_fetch_parse hf)
    · exact .inr (congrArg (·.syncWrite l') ht)

theorem stepWith_rx_not_valid_rxq {d : Byte} {l : Bool} {s t : State}
    (h : stepWith (.rx false d l) s = .next t) : t.rxq = s.rxq.syncWrite l := by
  rw [stepWith, fetch_rx_not_valid] at h
  cases h
  rfl

theorem stepWith_tx_not_ready_txq {l l' : Bool} {s t : State}
    (h : stepWith (.tx false l l') s = .next t) : t.txq = s.txq.syncRead l := by
  rw [stepWith, fetch_tx_not_ready] at h
  cases h
  rfl

/-! ### The one writer of each side -/

theorem rxq_write_side_moves {e : EnvStep} {s t : State} (h : stepWith e s = .next t) (he : e ≠ .rst)
    (hm : t.rxq.wbin ≠ s.rxq.wbin ∨ t.rxq.mem ≠ s.rxq.mem) : ∃ d l, e = .rx true d l := by
  cases e with
  | rx v d l =>
    cases v with
    | true => exact ⟨d, l, rfl⟩
    | false => simp [stepWith_rx_not_valid_rxq h] at hm
  | core c l l' => obtain ⟨⟨q, rfl | rfl, hq⟩, -⟩ := stepWith_core_effect h <;> simp [hq] at hm
  | tx r l l' => simp [(stepWith_tx_effect h).1] at hm
  | rst => exact absurd rfl he

theorem rxq_rbin_moves {e : EnvStep} {s t : State} (h : stepWith e s = .next t) (he : e ≠ .rst)
    (hm : t.rxq.rbin ≠ s.rxq.rbin) : (∃ l1 l2, e = .core false l1 l2) ∧ s.phase = .pump := by
  cases e with
  | rx v d l => obtain ⟨-, -, q, rfl | rfl, hq⟩ := stepWith_rx_effect h <;> simp [hq] at hm
  | core c l l' =>
    rcases (stepWith_core_queues h).1 with ⟨rfl, hp⟩ | hq
    · exact ⟨⟨l, l', rfl⟩, hp⟩
    · simp [hq] at hm
  | tx r l l' => simp [(stepWith_tx_effect h).1] at hm
  | rst => exact absurd rfl he

theorem txq_write_side_moves {e : EnvStep} {s t : State} (h : stepWith e s = .next t) (he : e ≠ .rst)
    (hm : t.txq.wbin ≠ s.txq.wbin ∨ t.txq.mem ≠ s.txq.mem) :
    (∃ l1 l2, e = .core false l1 l2) ∧ s.phase = .parse := by
  cases e with
  | rx v d l => simp [(stepWith_rx_effect h).1] at hm
  | core c l l' =>
    rcases (stepWith_core_queues h).2 with ⟨rfl, hp⟩ | hq
    · exact ⟨⟨l, l', rfl⟩, hp⟩
    · simp [hq] at hm
  | tx r l l' => obtain ⟨-, ⟨q, rfl | rfl, hq⟩, -⟩ := stepWith_tx_effect h <;> simp [hq] at hm
  | rst => exact absurd rfl he

theorem txq_rbin_moves {e : EnvStep} {s t : State} (h : stepWith e s = .next t) (he : e ≠ .rst)
    (hm : t.txq.rbin ≠ s.txq.rbin) : ∃ l1 l2, e = .tx true l1 l2 := by
  cases e with
  | rx v d l => simp [(stepWith_rx_effect h).1] at hm
  | core c l l' =>
    obtain ⟨-, ⟨q, rfl | ⟨d, rfl⟩, hq⟩, -⟩ := stepWith_core_effect h <;> simp [hq] at hm
  | tx r l l' =>
    cases r with
    | true => exact ⟨l, l', rfl⟩
    | false => simp [stepWith_tx_not_ready_txq h] at hm
  | rst => exact absurd rfl he

/-- Settles O51: each side of each queue has the one writer that R101 names. -/
theorem eachQueueSideHasOneWriter : Obligations.EachQueueSideHasOneWriter := by
  intro e s t h he
  exact ⟨rxq_write_side_moves h he, rxq_rbin_moves h he, txq_write_side_moves h he, txq_rbin_moves h he⟩

end Sys2Proof.Machine
end

