-- ==== Sys2Proof/Proofs/TransportEdges.lean ====
section
/-! PROOFS. The receive and the transmit edge as whole next states (spec/41_transport.md R118, R119). Each edge is first reduced to the one operation that its control vector selects, followed by the synchroniser updates; what is left is that the enable formula of R117 and the operation's own write of `tx_ie` agree. -/

namespace Sys2Proof.Machine

/-- The choice between the two samples of R96, as a condition on the two bits. -/
theorem sampled_eq_ite {α : Type} (cur prev : α) (fresh late : Bool) :
    sampled cur prev fresh late = if fresh = true ∧ late = true then prev else cur := by
  simp only [sampled, Bool.and_eq_true]

/-! ### The receive edge (spec/41_transport.md R118) -/

theorem exec_rxEdge (valid : Bool) (d : Byte) (late : Bool) (s : State) :
    exec (.rxEdge valid d late) s = .next (rxEdge valid d late s) := rfl

theorem rxEdge_not_valid (d : Byte) (late : Bool) (s : State) :
    rxEdge false d late s = s.setRxq (s.rxq.syncWrite late) := rfl

theorem rxEdge_of_full (d : Byte) (late : Bool) {s : State} (h : s.rxq.full s.cfg.rxAw = true) :
    rxEdge true d late s = (s.observe (.drop .rxq d)).setRxq (s.rxq.syncWrite late) := by
  simp [rxEdge, h, rxDrop, aqSync]

theorem rxPush_of_room (d : Byte) {s : State} (h : s.rxq.full s.cfg.rxAw = false) :
    rxPush d s = s.setRxq (s.rxq.accept s.cfg.rxAw d) := by
  simp [rxPush, aqPush, State.fifo, State.aw, State.setFifo, h]

theorem rxEdge_of_room (d : Byte) (late : Bool) {s : State} (h : s.rxq.full s.cfg.rxAw = false) :
    rxEdge true d late s = s.setRxq ((s.rxq.accept s.cfg.rxAw d).syncWrite late) := by
  simp only [rxEdge, h, rxPush_of_room d h]
  rfl

/-- Settles O23: the three rows of `{rx_valid, full(rxq)}`, with the sample of R96 read before the edge. -/
theorem receiveEdgeSynchronisesAndStores : Obligations.ReceiveEdgeSynchronisesAndStores := by
  intro s d late stage hstage
  rw [← sampled_eq_ite] at hstage
  subst hstage
  refine ⟨?_, fun hfull => ?_, fun hroom => ?_⟩
  · rw [exec_rxEdge, rxEdge_not_valid]; rfl
  · rw [exec_rxEdge, rxEdge_of_full d late hfull]; rfl
  · rw [exec_rxEdge, rxEdge_of_room d late hroom]; rfl

/-! ### The transmit edge (spec/41_transport.md R117, R119) -/

theorem exec_txEdge (ready lateTx lateArm : Bool) (s : State) :
    exec (.txEdge ready lateTx lateArm) s = .next (txEdge ready lateTx lateArm s) := rfl

/-- Where the operation has already followed `arm_q2`, the set of R117 repeats it and only the stages shift. -/
theorem armSync_of_set (late : Bool) {s : State} (h : s.tr.armQ2 = true → s.tr.txIe = true) :
    armSync late s = s.setTr { s.tr with
      armQ2 := s.tr.armQ1
      armQ1 := sampled s.tr.armReq s.tr.armPrev s.tr.armFresh late
      armFresh := false } := by
  have hset : (if s.tr.armQ2 then true else s.tr.txIe) = s.tr.txIe := by
    split
    · next harm => exact (h harm).symm
    · rfl
  rw [armSync, hset]

/-- `TX.SEND` with a byte visible (spec/41_transport.md R113). -/
theorem txSend_of_pending {s : State} (h : s.txq.empty = false) :
    txSend s = ((s.setTxq (s.txq.advance s.cfg.txAw)).setTr
      { s.tr with txData := s.txq.front .txqMem s.cfg.txAw, txValid := true, txIe := true }).observe
        (.txByte (s.txq.front .txqMem s.cfg.txAw)) := by
  simp only [txSend, aqPop, State.fifo, h]
  rfl

/-- With the handler enabled and a byte pending, the edge is `TX.SEND` and the two synchronisers. -/
theorem txEdge_of_send (lateTx lateArm : Bool) {ready : Bool} {s : State}
    (hfire : (ready && s.tr.txIe) = true) (he : s.txq.empty = false) :
    txEdge ready lateTx lateArm s = armSync lateArm (aqSync .txqRead lateTx (txSend s)) := by
  simp [txEdge, hfire, he]

/-- Without a byte to send, `TX.PARK` and `TX.IDLE` are one write: `tx_valid` falls and `tx_ie` follows the formula
of R117, cleared only where the handler fires on an empty queue with no arm request in sight. -/
theorem txEdge_of_no_send (lateTx lateArm : Bool) {ready : Bool} {s : State}
    (h : (ready && s.tr.txIe && !s.txq.empty) = false) :
    txEdge ready lateTx lateArm s = armSync lateArm (aqSync .txqRead lateTx (s.setTr { s.tr with
      txValid := false
      txIe := if s.tr.armQ2 then true else if ready && s.tr.txIe && s.txq.empty then false else s.tr.txIe })) := by
  cases hfire : ready && s.tr.txIe with
  | false => simp [txEdge, txIdle, hfire]
  | true =>
    have he : s.txq.empty = true := by simpa [hfire] using h
    simp [txEdge, txPark, hfire, he]

/-- Where a byte is sent the enable formula of R117 gives 1, whether or not the arm request is in sight. -/
theorem enable_formula_of_send {armQ2 ready txIe empty : Bool} (hie : txIe = true) (he : empty = false) :
    (if armQ2 then true else if ready && txIe && empty then false else txIe) = true := by
  cases armQ2 <;> simp [hie, he]

/-- Settles O26: both branches of `fire & !empty(txq)`. Where a byte is sent the formula gives 1, the value the send
writes; where none is, it is the operation's own write, and the arm's set changes neither. -/
theorem transmitEdgeFollowsTheEnableFormula : Obligations.TransmitEdgeFollowsTheEnableFormula := by
  intro s ready lateTx lateArm tr txq htr htxq
  rw [← sampled_eq_ite] at htr htxq
  subst htr htxq
  constructor
  · intro h
    rw [exec_txEdge, txEdge_of_no_send lateTx lateArm h, armSync_of_set lateArm fun harm => if_pos harm]
    rfl
  · intro h
    obtain ⟨hfire, he⟩ : (ready && s.tr.txIe) = true ∧ s.txq.empty = false := by simpa using h
    have hie : s.tr.txIe = true := (Bool.and_eq_true_iff.mp hfire).2
    rw [enable_formula_of_send hie he, exec_txEdge, txEdge_of_send lateTx lateArm hfire he, txSend_of_pending he,
      armSync_of_set lateArm fun _ => rfl]
    rfl

end Sys2Proof.Machine
end

/-! PROOFS. The checksum law of a Data record (spec/44_page_checksum.md R170), and under it how the parser reads the bytes of a record: each hex row as a whole next state in either nibble phase, the two rows of a byte put together (spec/30_encoding.md R65), and the bytes of a text one after the other. The page and the checksum of a record being read are then functions of the bytes read so far. -/

namespace Sys2Proof.Machine

/-! ### The halves of a byte and of an address -/

theorem highNibble_append (v w : Nibble) : (v ++ w : Byte).extractLsb' 4 4 = v := by
  revert v w; decide

/-- The address register after its two bytes (spec/43_parser.md R142), whatever its low byte held in between. -/
theorem highByte_append (x y : Byte) : (x ++ y : Addr).extractLsb' 8 8 = x :=
  BitVec.extractLsb'_append_eq_left

/-! ### The width of `pg_len` holds every length up to the page size (spec/00_scope.md R2) -/

theorem le_two_pow_ceilLog2 (n : Nat) : n ≤ 2 ^ ceilLog2 n := by
  rw [ceilLog2]
  split
  · simpa using ‹n ≤ 1›
  · have : n - 1 < 2 ^ (Nat.log2 (n - 1) + 1) := Nat.lt_log2_self
    omega

theorem Config.mod_pgLw {c : Config} {n : Nat} (h : n ≤ c.pageSize) : n % 2 ^ c.pgLw = n := by
  have := le_two_pow_ceilLog2 (c.pageSize + 1)
  exact Nat.mod_eq_of_lt (by rw [Config.pgLw]; omega)

/-! ### The page as a function of the bytes appended to it (spec/44_page_checksum.md R175) -/

/-- The page with one byte more, where there is room for it. -/
def Page.push (g : Page) (y : Byte) : Page := { g with data := g.data.write g.len y, len := g.len + 1 }

@[simp] theorem Page.push_len (g : Page) (y : Byte) : (g.push y).len = g.len + 1 := rfl
@[simp] theorem Page.push_addr (g : Page) (y : Byte) : (g.push y).addr = g.addr := rfl

theorem appendByte_of_room {s : State} (y : Byte) (h : s.page.len < s.cfg.pageSize) :
    appendByte y s = .ok (s.setPage (s.page.push y)) := by
  rw [appendByte, if_pos h, Config.mod_pgLw h]
  rfl

theorem Page.push_wf {size : Nat} {g : Page} (y : Byte) (hl : g.len < size) (h : g.data.wf size = true) :
    (g.push y).data.wf size = true := Memory.write_wf hl h

theorem Page.bytes_push {size : Nat} {g : Page} (y : Byte) (h : g.data.wf size = true) :
    (g.push y).bytes = g.bytes ++ [y] := by
  have hold : ∀ i ∈ List.range g.len, (g.data.write g.len y).read .pgData i = g.data.read .pgData i :=
    fun i hi => Memory.read_write_other _ _ _ (Nat.ne_of_lt (List.mem_range.mp hi))
  rw [Page.bytes, Page.push, List.range_succ, List.map_append, List.map_congr_left hold]
  simp [Page.bytes, Memory.read_write_same _ _ _ _ h]

/-- The page with a list of bytes more. -/
def Page.append (g : Page) (ys : List Byte) : Page := ys.foldl Page.push g

@[simp] theorem Page.append_nil (g : Page) : g.append [] = g := rfl
@[simp] theorem Page.append_cons (g : Page) (y : Byte) (ys : List Byte) :
    g.append (y :: ys) = (g.push y).append ys := rfl

@[simp] theorem Page.append_addr (g : Page) (ys : List Byte) : (g.append ys).addr = g.addr := by
  induction ys generalizing g with
  | nil => rfl
  | cons y ys ih => rw [append_cons, ih, push_addr]

@[simp] theorem Page.append_len (g : Page) (ys : List Byte) : (g.append ys).len = g.len + ys.length := by
  induction ys generalizing g with
  | nil => rfl
  | cons y ys ih => rw [append_cons, ih, push_len, List.length_cons]; omega

theorem Page.bytes_append {size : Nat} {g : Page} {ys : List Byte} (hl : g.len + ys.length ≤ size)
    (h : g.data.wf size = true) : (g.append ys).bytes = g.bytes ++ ys := by
  induction ys generalizing g with
  | nil => simp
  | cons y ys ih =>
    rw [List.length_cons] at hl
    have hpush : (g.push y).len + ys.length ≤ size := by rw [Page.push_len]; omega
    rw [Page.append_cons, ih hpush (Page.push_wf y (by omega) h), Page.bytes_push y h, List.append_assoc]
    rfl

/-- The bytes of a page begun afresh are those appended since. -/
theorem Page.bytes_append_cleared (c : Config) (addr : Addr) {ys : List Byte} (h : ys.length ≤ 255) :
    (Page.append ⟨addr, 0, Memory.cleared⟩ ys).bytes = ys := by
  have hroom : 0 + ys.length ≤ c.pageSize := by have := c.pageSize_min; omega
  exact Page.bytes_append hroom (Memory.cleared_wf _)

/-! ### Each hex row as a whole next state, in either nibble phase (spec/43_parser.md) -/

theorem bcNib_high (v : Nibble) {s : State} (h : s.pend.nibPhase = false) :
    bcNib v s = { s with
      pend := { s.pend with bcRem := s.pend.bcRem - 1, acc := v ++ (0 : Nibble), nibPhase := true }
      pstate := .byteCount } := by
  rw [bcNib, takeNibble_high h]; rfl

theorem bcNib_low (v : Nibble) {s : State} (h : s.pend.nibPhase = true) {y : Byte}
    (hy : s.pend.acc.extractLsb' 4 4 ++ v = y) :
    bcNib v s = { s with
      pend := { s.pend with bcRem := s.pend.bcRem - 1, acc := y, nibPhase := false, recLen := y }
      cksum := s.cksum + y
      pstate := .address } := by
  rw [bcNib, takeNibble_low h, hy]; rfl

theorem addrNib_high (v : Nibble) {s : State} (h : s.pend.nibPhase = false) :
    addrNib v s = { s with
      pend := { s.pend with addrRem := s.pend.addrRem - 1, acc := v ++ (0 : Nibble), nibPhase := true }
      pstate := .address } := by
  rw [addrNib, takeNibble_high h]; rfl

theorem addrNib_low_first (v : Nibble) {s : State} (h : s.pend.nibPhase = true) (hr : s.pend.addrRem = 3) {y : Byte}
    (hy : s.pend.acc.extractLsb' 4 4 ++ v = y) :
    addrNib v s = { s with
      pend := { s.pend with addrRem := 2, acc := y, nibPhase := false }
      cksum := s.cksum + y
      page := { s.page with addr := y ++ s.page.addr.extractLsb' 0 8 }
      pstate := .address } := by
  rw [addrNib, takeNibble_low h, hy, hr]; rfl

theorem addrNib_low_second (v : Nibble) {s : State} (h : s.pend.nibPhase = true) (hr : s.pend.addrRem = 1) {y : Byte}
    (hy : s.pend.acc.extractLsb' 4 4 ++ v = y) :
    addrNib v s = { s with
      pend := { s.pend with addrRem := 0, acc := y, nibPhase := false }
      cksum := s.cksum + y
      page := { s.page with addr := s.page.addr.extractLsb' 8 8 ++ y }
      pstate := .recordType } := by
  rw [addrNib, takeNibble_low h, hy, hr]; rfl

theorem rtNib_high (v : Nibble) {s : State} (h : s.pend.nibPhase = false) :
    rtNib v s = { s with
      pend := { s.pend with rtRem := s.pend.rtRem - 1, acc := v ++ (0 : Nibble), nibPhase := true }
      pstate := .recordType } := by
  rw [rtNib, takeNibble_high h]; rfl

theorem rtNib_low (v : Nibble) {s : State} (h : s.pend.nibPhase = true) {y : Byte}
    (hy : s.pend.acc.extractLsb' 4 4 ++ v = y) :
    rtNib v s = recordKind y { s with
      pend := { s.pend with rtRem := s.pend.rtRem - 1, acc := y, nibPhase := false, recType := y }
      cksum := s.cksum + y } := by
  rw [rtNib, takeNibble_low h, hy]; rfl

theorem dataNib_high (v : Nibble) {s : State} (h : s.pend.nibPhase = false) :
    dataNib v s = .ok { s with
      pend := { s.pend with acc := v ++ (0 : Nibble), nibPhase := true }
      pstate := .data } := by
  rw [dataNib, takeNibble_high h]; rfl

theorem dataNib_low (v : Nibble) {s : State} (h : s.pend.nibPhase = true) (hl : s.page.len < s.cfg.pageSize) {y : Byte}
    (hy : s.pend.acc.extractLsb' 4 4 ++ v = y) :
    dataNib v s = .ok { s with
      pend := { s.pend with acc := y, nibPhase := false }
      cksum := s.cksum + y
      page := s.page.push y
      pstate := if s.page.len + 1 = s.pend.recLen.toNat then .checksum else .data } := by
  rw [dataNib, takeNibble_low h, hy, Config.mod_pgLw hl]
  dsimp only
  rw [appendByte_of_room]
  · rfl
  · exact hl

theorem ckNib_high (v : Nibble) {s : State} (h : s.pend.nibPhase = false) :
    ckNib v s = { s with
      pend := { s.pend with ckRem := s.pend.ckRem - 1, acc := v ++ (0 : Nibble), nibPhase := true }
      pstate := .checksum } := by
  rw [ckNib, takeNibble_high h]; rfl

/-- What follows the last nibble of a record, its byte added to the sum: the sum alone decides between the two ends
(spec/43_parser.md R151). -/
def closeRecord (t : State) : State := if t.cksum = 0x00 then checksumGood t else checksumBad t

theorem closeRecord_of_zero {t : State} (h : t.cksum = 0x00) : closeRecord t = checksumGood t := if_pos h

theorem closeRecord_of_ne_zero {t : State} (h : t.cksum ≠ 0x00) : closeRecord t = checksumBad t := if_neg h

theorem ckNib_low (v : Nibble) {s : State} (h : s.pend.nibPhase = true) {y : Byte}
    (hy : s.pend.acc.extractLsb' 4 4 ++ v = y) :
    ckNib v s = closeRecord { s with
      pend := { s.pend with ckRem := s.pend.ckRem - 1, acc := y, nibPhase := false }
      cksum := s.cksum + y } := by
  rw [ckNib, takeNibble_low h, hy]; rfl

/-! ### `ParserStep` on a hex character, by parser state (spec/30_encoding.md R66) -/

theorem parserStep_colon_of_init {s : State} (hp : s.pstate = .init) : parserStep 0x3A s = .ok (initStart s) := by
  simp [parserStep, selectPstep, hp, symbolClass]

theorem parserStep_hex_of_byteCount {b : Byte} {s : State} (hp : s.pstate = .byteCount) (hb : isHex b = true) :
    parserStep b s = .ok (bcNib (nibbleOf b) s) := by
  simp [parserStep, selectPstep, hp, hb]

theorem parserStep_hex_of_address {b : Byte} {s : State} (hp : s.pstate = .address) (hb : isHex b = true) :
    parserStep b s = .ok (addrNib (nibbleOf b) s) := by
  simp [parserStep, selectPstep, hp, hb]

theorem parserStep_hex_of_recordType {b : Byte} {s : State} (hp : s.pstate = .recordType) (hb : isHex b = true) :
    parserStep b s = .ok (rtNib (nibbleOf b) s) := by
  simp [parserStep, selectPstep, hp, hb]

theorem parserStep_hex_of_data {b : Byte} {s : State} (hp : s.pstate = .data) (hb : isHex b = true) :
    parserStep b s = dataNib (nibbleOf b) s := by
  simp [parserStep, selectPstep, hp, hb]

theorem parserStep_hex_of_checksum {b : Byte} {s : State} (hp : s.pstate = .checksum) (hb : isHex b = true) :
    parserStep b s = .ok (ckNib (nibbleOf b) s) := by
  simp [parserStep, selectPstep, hp, hb]

/-! ### Text and the bytes it stands for (spec/30_encoding.md R60, R65) -/

theorem parseText_nil (s : State) : parseText [] s = .next s := rfl

theorem parseText_cons_of_ok {b : Byte} {s t : State} (h : parserStep b s = .ok t) (rest : List Byte) :
    parseText (b :: rest) s = parseText rest t := by
  have hexec : exec (.parserStep b) s = .next t := congrArg toOut h
  rw [parseText, List.map_cons, execAll, hexec]
  rfl

theorem hexBytes_eq_nil {text : List Byte} (h : hexBytes text = some []) : text = [] := by
  match text with
  | [] => rfl
  | [_] => simp [hexBytes] at h
  | _ :: _ :: _ => simp [hexBytes] at h

theorem hexBytes_eq_cons {text ys : List Byte} {y : Byte} (h : hexBytes text = some (y :: ys)) :
    ∃ a b rest, text = a :: b :: rest ∧ isHex a = true ∧ isHex b = true ∧ nibbleOf a ++ nibbleOf b = y ∧
      hexBytes rest = some ys := by
  match text with
  | [] => simp [hexBytes] at h
  | [_] => simp [hexBytes] at h
  | a :: b :: rest =>
    simp only [hexBytes, hexDecode_valid_eq_isHex, Option.ite_none_right_eq_some, Bool.and_eq_true,
      Option.map_eq_some_iff, List.cons.injEq] at h
    obtain ⟨⟨ha, hb⟩, ys', hrest, hy, rfl⟩ := h
    exact ⟨a, b, rest, rfl, ha, hb, hy, hrest⟩

theorem hexBytes_eq_append {ys zs text : List Byte} (h : hexBytes text = some (ys ++ zs)) :
    ∃ front back, text = front ++ back ∧ hexBytes front = some ys ∧ hexBytes back = some zs := by
  induction ys generalizing text with
  | nil => exact ⟨[], text, rfl, rfl, h⟩
  | cons y ys ih =>
    obtain ⟨a, b, rest, rfl, ha, hb, hy, hrest⟩ := hexBytes_eq_cons h
    obtain ⟨front, back, rfl, hfront, hback⟩ := ih hrest
    refine ⟨a :: b :: front, back, rfl, ?_, hback⟩
    simp [hexBytes, hexDecode_valid_eq_isHex, ha, hb, hfront, hy]

/-! ### Reading bytes -/

/-- From `s` the parser comes to `t` over every text that stands for the bytes `ys`, in either case of the digits. -/
def ReadsBytes (ys : List Byte) (s t : State) : Prop :=
  ∀ text, hexBytes text = some ys → ∀ rest, parseText (text ++ rest) s = parseText rest t

theorem ReadsBytes.nil (s : State) : ReadsBytes [] s s := by
  intro text h rest
  rw [hexBytes_eq_nil h, List.nil_append]

theorem ReadsBytes.trans {ys zs : List Byte} {s t u : State} (hst : ReadsBytes ys s t) (htu : ReadsBytes zs t u) :
    ReadsBytes (ys ++ zs) s u := by
  intro text h rest
  obtain ⟨front, back, rfl, hfront, hback⟩ := hexBytes_eq_append h
  rw [List.append_assoc, hst front hfront, htu back hback]

/-- One byte is read by two steps of `ParserStep`, high nibble first. -/
theorem ReadsBytes.of_two_steps {y : Byte} {s t : State}
    (h : ∀ a b, isHex a = true → isHex b = true → nibbleOf a ++ nibbleOf b = y →
      ∃ u, parserStep a s = .ok u ∧ parserStep b u = .ok t) : ReadsBytes [y] s t := by
  intro text htext rest
  obtain ⟨a, b, tail, rfl, ha, hb, hy, htail⟩ := hexBytes_eq_cons htext
  obtain ⟨u, hu, ht⟩ := h a b ha hb hy
  rw [hexBytes_eq_nil htail, List.cons_append, parseText_cons_of_ok hu, List.cons_append, parseText_cons_of_ok ht,
    List.nil_append]

/-- A whole record: the start character from Init, then the bytes of its text. -/
theorem ReadsBytes.parse_record {ys text : List Byte} {s t : State} (h : ReadsBytes ys (initStart s) t)
    (hp : s.pstate = .init) (htext : hexBytes text = some ys) : parseText (0x3A :: text) s = .next t := by
  rw [parseText_cons_of_ok (parserStep_colon_of_init hp), ← List.append_nil text, h text htext, parseText_nil]

/-! ### The bytes of a record, field by field -/

/-- The state `s` in the middle of a record, with what the rows of the fields write: the parser's registers, the
checksum and the page. -/
def State.inRecord (s : State) (st : PState) (p : PendingRecord) (c : Byte) (g : Page) : State :=
  { s with pstate := st, pend := p, cksum := c, page := g, errCause := none }

/-- The pending record between two bytes of a record, none of its checksum: how many nibbles of length, address and
type are to come, the last byte, and the length and the type as far as they have been read (spec/43_parser.md R158). -/
def PendingRecord.between (bc : BitVec 2) (addr : BitVec 3) (rt : BitVec 2) (acc len ty : Byte) : PendingRecord :=
  { bcRem := bc, addrRem := addr, rtRem := rt, ckRem := 2, acc := acc, nibPhase := false, recLen := len, recType := ty }

theorem initStart_eq_inRecord (s : State) :
    initStart s = s.inRecord .byteCount (.between 2 4 2 0x00 0x00 0x00) 0x00 ⟨0x0000, 0, Memory.cleared⟩ := rfl

section
variable (s : State) (acc n c : Byte) (g : Page) (y : Byte)

theorem readsBytes_byteCount :
    ReadsBytes [y] (s.inRecord .byteCount (.between 2 4 2 acc n 0x00) c g)
      (s.inRecord .address (.between 0 4 2 y y 0x00) (c + y) g) := by
  refine .of_two_steps fun a b ha hb hy => ⟨_, parserStep_hex_of_byteCount rfl ha, ?_⟩
  rw [bcNib_high _ rfl, parserStep_hex_of_byteCount rfl hb, bcNib_low _ rfl (by rw [highNibble_append, hy])]
  simp [State.inRecord, PendingRecord.between]

theorem readsBytes_address_first :
    ReadsBytes [y] (s.inRecord .address (.between 0 4 2 acc n 0x00) c g)
      (s.inRecord .address (.between 0 2 2 y n 0x00) (c + y) { g with addr := y ++ g.addr.extractLsb' 0 8 }) := by
  refine .of_two_steps fun a b ha hb hy => ⟨_, parserStep_hex_of_address rfl ha, ?_⟩
  rw [addrNib_high _ rfl, parserStep_hex_of_address rfl hb,
    addrNib_low_first _ rfl (rfl : (4 : BitVec 3) - 1 = 3) (by rw [highNibble_append, hy])]
  simp [State.inRecord, PendingRecord.between]

theorem readsBytes_address_second :
    ReadsBytes [y] (s.inRecord .address (.between 0 2 2 acc n 0x00) c g)
      (s.inRecord .recordType (.between 0 0 2 y n 0x00) (c + y) { g with addr := g.addr.extractLsb' 8 8 ++ y }) := by
  refine .of_two_steps fun a b ha hb hy => ⟨_, parserStep_hex_of_address rfl ha, ?_⟩
  rw [addrNib_high _ rfl, parserStep_hex_of_address rfl hb,
    addrNib_low_second _ rfl (rfl : (2 : BitVec 3) - 1 = 1) (by rw [highNibble_append, hy])]
  simp [State.inRecord, PendingRecord.between]

theorem readsBytes_recordType :
    ReadsBytes [y] (s.inRecord .recordType (.between 0 0 2 acc n 0x00) c g)
      (recordKind y (s.inRecord .recordType (.between 0 0 0 y n y) (c + y) g)) := by
  refine .of_two_steps fun a b ha hb hy => ⟨_, parserStep_hex_of_recordType rfl ha, ?_⟩
  rw [rtNib_high _ rfl, parserStep_hex_of_recordType rfl hb, rtNib_low _ rfl (by rw [highNibble_append, hy])]
  simp [State.inRecord, PendingRecord.between]

theorem readsBytes_dataByte (hl : g.len < s.cfg.pageSize) :
    ReadsBytes [y] (s.inRecord .data (.between 0 0 0 acc n 0x00) c g)
      (s.inRecord (if (g.push y).len = n.toNat then .checksum else .data) (.between 0 0 0 y n 0x00) (c + y)
        (g.push y)) := by
  refine .of_two_steps fun a b ha hb hy => ⟨_, (parserStep_hex_of_data rfl ha).trans (dataNib_high _ rfl), ?_⟩
  rw [parserStep_hex_of_data rfl hb, dataNib_low _ rfl hl (by rw [highNibble_append, hy])]
  rfl

theorem readsBytes_checksum :
    ReadsBytes [y] (s.inRecord .checksum (.between 0 0 0 acc n 0x00) c g)
      (closeRecord (s.inRecord .checksum { PendingRecord.between 0 0 0 y n 0x00 with ckRem := 0 } (c + y) g)) := by
  refine .of_two_steps fun a b ha hb hy => ⟨_, parserStep_hex_of_checksum rfl ha, ?_⟩
  rw [ckNib_high _ rfl, parserStep_hex_of_checksum rfl hb, ckNib_low _ rfl (by rw [highNibble_append, hy])]
  simp [State.inRecord, PendingRecord.between]

/-- The data field: the parser leaves Data with the byte that makes the page as long as the record says, and a
field of no bytes never enters it (spec/43_parser.md R145, R149). -/
theorem readsBytes_data {ys : List Byte} (hlen : g.len + ys.length = n.toNat) :
    ReadsBytes ys
      (s.inRecord (if g.len = n.toNat then .checksum else .data) (.between 0 0 0 acc n 0x00) c g)
      (s.inRecord .checksum (.between 0 0 0 (ys.getLastD acc) n 0x00) (c + byteSum ys) (g.append ys)) := by
  induction ys generalizing acc c g with
  | nil =>
    have hfull : g.len = n.toNat := hlen
    have hsum : c + byteSum [] = c := BitVec.add_zero c
    rw [if_pos hfull, hsum]
    exact .nil _
  | cons y ys ih =>
    rw [List.length_cons] at hlen
    have hroom : g.len < s.cfg.pageSize := by
      have := s.cfg.pageSize_min
      have := n.isLt
      omega
    have hrest := ih y (c + y) (g.push y) (by rw [← hlen, Page.push_len]; omega)
    rw [if_neg (by omega), byteSum, ← BitVec.add_assoc, List.getLastD_cons]
    exact (readsBytes_dataByte s acc n c g y hroom).trans hrest

end

/-- Length and address of a record, from the start character on. -/
theorem readsBytes_header (s : State) (n ah al : Byte) :
    ReadsBytes [n, ah, al] (initStart s)
      (s.inRecord .recordType (.between 0 0 2 al n 0x00) (n + ah + al) ⟨ah ++ al, 0, Memory.cleared⟩) := by
  have hzero : (0x00 : Byte) + n = n := BitVec.zero_add n
  have hcount := readsBytes_byteCount s 0x00 0x00 0x00 ⟨0x0000, 0, Memory.cleared⟩ n
  rw [← initStart_eq_inRecord, hzero] at hcount
  have haddr := (hcount.trans (readsBytes_address_first s _ _ _ _ ah)).trans (readsBytes_address_second s _ _ _ _ al)
  rw [highByte_append] at haddr
  exact haddr

/-- After the type byte of a Data record the parser is in Data, or in Checksum where the record has no data
(spec/43_parser.md R145). -/
theorem recordKind_data_inRecord (s : State) (st : PState) (p : PendingRecord) (c : Byte) {g : Page} (h : g.len = 0) :
    recordKind 0x00 (s.inRecord st p c g) =
      s.inRecord (if g.len = p.recLen.toNat then .checksum else .data) p c g := by
  have hempty : g.len = p.recLen.toNat ↔ p.recLen = 0x00 := by
    rw [h, eq_comm]; exact BitVec.toNat_inj (y := 0x00)
  simp only [hempty]
  rfl

/-- A Data record up to its checksum byte: the sum of its bytes stands in `cksum`, its data in the page. -/
theorem readsBytes_upToChecksum (s : State) {n : Byte} (ah al : Byte) {data : List Byte}
    (hlen : data.length = n.toNat) :
    ReadsBytes (n :: ah :: al :: 0x00 :: data) (initStart s)
      (s.inRecord .checksum (.between 0 0 0 (data.getLastD 0x00) n 0x00) (n + ah + al + 0x00 + byteSum data)
        (Page.append ⟨ah ++ al, 0, Memory.cleared⟩ data)) := by
  have htype := (readsBytes_header s n ah al).trans (readsBytes_recordType s _ _ _ _ 0x00)
  rw [recordKind_data_inRecord _ _ _ _ rfl] at htype
  exact htype.trans (readsBytes_data s _ _ _ _ ((Nat.zero_add _).trans hlen))

/-! ### The two ends of a Data record (spec/43_parser.md R152, R153) -/

/-- What `DiagPush` leaves in `txq` and in the trace is decided by these two and the parameters. -/
theorem diagPush_trace_txq_congr (b : Byte) {s t : State} (hc : s.cfg = t.cfg) (hq : s.txq = t.txq)
    (ht : s.trace = t.trace) :
    (diagPush b s).trace = (diagPush b t).trace ∧ (diagPush b s).txq = (diagPush b t).txq := by
  rcases diagPush_cases b t with ⟨hfull, hdrop⟩ | ⟨hroom, hpush⟩
  · obtain ⟨-, hdrop'⟩ := (diagPush_cases b s).resolve_right (by simp [hc, hq, hfull])
    rw [hdrop, hdrop']
    exact ⟨congrArg (Event.drop .txq b :: ·) ht, hq⟩
  · obtain ⟨-, hpush'⟩ := (diagPush_cases b s).resolve_left (by simp [hc, hq, hroom])
    rw [hpush, hpush', hc, hq]
    exact ⟨ht, rfl⟩

/-- The entry into Error makes the diagnostic's push and no other event (spec/60_exceptions.md R200). -/
theorem enterError_trace_txq (c : Cause) {s t : State} (hc : s.cfg = t.cfg) (hq : s.txq = t.txq)
    (ht : s.trace = t.trace) :
    (enterError c s).trace = (diagPush (diagByte t.cfg c) t).trace ∧
      (enterError c s).txq = (diagPush (diagByte t.cfg c) t).txq := by
  rw [enterError, hc]
  exact diagPush_trace_txq_congr _ hc hq ht

/-- The whole text of a Data record: the parser comes to its end with the sum of all its bytes in `cksum` and its
data in the page. -/
theorem parseText_dataRecord {s : State} {text data : List Byte} {n ah al cc : Byte} (hp : s.pstate = .init)
    (hlen : data.length = n.toNat) (htext : hexBytes text = some (n :: ah :: al :: 0x00 :: (data ++ [cc]))) :
    ∃ p : PendingRecord, parseText (0x3A :: text) s =
      .next (closeRecord (s.inRecord .checksum p (n + ah + al + 0x00 + byteSum data + cc)
        (Page.append ⟨ah ++ al, 0, Memory.cleared⟩ data))) :=
  ⟨_, ((readsBytes_upToChecksum s ah al hlen).trans (readsBytes_checksum s _ _ _ _ cc)).parse_record hp htext⟩

/-- Settles O56: the parser has added up every byte of the record when it decides, and the page then holds the data. -/
theorem dataRecordIsAcceptedIffItsSumIsZero : Obligations.DataRecordIsAcceptedIffItsSumIsZero := by
  intro s text data n ah al cc hp hlen htext
  obtain ⟨p, hend⟩ := parseText_dataRecord hp hlen htext
  constructor
  · intro hsum
    rw [closeRecord_of_zero hsum] at hend
    have hbytes := Page.bytes_append_cleared s.cfg (ah ++ al) (ys := data) (by omega)
    refine ⟨_, hend, rfl, rfl, rfl, ?_, rfl⟩
    simp [checksumGood, resetPending, commit, State.inRecord, hbytes, hlen]
  · intro hsum
    rw [closeRecord_of_ne_zero hsum] at hend
    exact ⟨_, hend, enterError_pstate _ _, enterError_errCause _ _, enterError_commitValid _ _,
      enterError_trace_txq .checksum rfl rfl rfl⟩

end Sys2Proof.Machine

/-! PROOFS. The two pulses of the core edge (spec/45_orchestrator.md R185). A core edge clears both, and only two rows of the parser set one again: the last checksum nibble of a record whose sum is zero and the second drained byte of an End-Of-File record (spec/43_parser.md R152, R154). So each operation is either silent, which is to say that it leaves the pulses and adds no event but a drop, or one of these two; and this carries over from the parser to `CORE.PARSE` and from there to the edge. -/

namespace Sys2Proof.Machine

/-! ### What an operation tells the host -/

/-- From `s` to `t` the host is told nothing: the pulses stay, and no event is added but at most one dropped byte. -/
structure Silent (s t : State) : Prop where
  commitValid : t.commitValid = s.commitValid
  eofValid : t.eofValid = s.eofValid
  trace : t.trace = s.trace ∨ ∃ q d, t.trace = .drop q d :: s.trace ∨ t.trace = .dropStaging d :: s.trace

theorem Silent.of_same {s t : State} (hc : t.commitValid = s.commitValid) (he : t.eofValid = s.eofValid)
    (ht : t.trace = s.trace) : Silent s t := ⟨hc, he, .inl ht⟩

theorem Silent.from_same {s s' t : State} (h : Silent s' t) (hc : s'.commitValid = s.commitValid)
    (he : s'.eofValid = s.eofValid) (ht : s'.trace = s.trace) : Silent s t :=
  ⟨h.commitValid.trans hc, h.eofValid.trans he, ht ▸ h.trace⟩

theorem Silent.to_same {s t t' : State} (h : Silent s t) (hc : t'.commitValid = t.commitValid)
    (he : t'.eofValid = t.eofValid) (ht : t'.trace = t.trace) : Silent s t' :=
  ⟨hc.trans h.commitValid, he.trans h.eofValid, ht ▸ h.trace⟩

/-- From `s` to `t` the host is told of a commit where `commits` holds, of the end of the file where `ends` holds, and
of nothing where neither does. -/
inductive Notifies (commits ends : Prop) (s t : State) : Prop where
  | commit (h : commits) (he : ¬ ends) (hcv : t.commitValid = true) (hev : t.eofValid = s.eofValid)
      (ht : t.trace = .commit s.page.addr s.page.bytes s.page.len :: s.trace)
  | eof (hc : ¬ commits) (h : ends) (hcv : t.commitValid = s.commitValid) (hev : t.eofValid = true)
      (ht : t.trace = .eof :: (diagPush s.cfg.diagEof s).trace)
  | silent (hc : ¬ commits) (he : ¬ ends) (h : Silent s t)

theorem Notifies.congr {c c' e e' : Prop} {s t : State} (h : Notifies c e s t) (hc : c ↔ c') (he : e ↔ e') :
    Notifies c' e' s t := by rwa [← hc, ← he]

theorem Notifies.to_same {c e : Prop} {s t t' : State} (h : Notifies c e s t) (hc : t'.commitValid = t.commitValid)
    (he : t'.eofValid = t.eofValid) (ht : t'.trace = t.trace) : Notifies c e s t' := by
  cases h with
  | commit h he' hcv hev htr => exact .commit h he' (hc.trans hcv) (he.trans hev) (ht.trans htr)
  | eof hc' h hcv hev htr => exact .eof hc' h (hc.trans hcv) (he.trans hev) (ht.trans htr)
  | silent hc' he' h => exact .silent hc' he' (h.to_same hc he ht)

/-- Taking a byte out of the staging queue first changes nothing of what the host is told. -/
theorem Notifies.of_setStq {c e : Prop} {s t : State} {q : StagingQueue} (h : Notifies c e (s.setStq q) t) :
    Notifies c e s t := by
  cases h with
  | commit h he hcv hev ht => exact .commit h he hcv hev ht
  | eof hc h hcv hev ht =>
    have hdiag := (diagPush_trace_txq_congr s.cfg.diagEof (s := s.setStq q) (t := s) rfl rfl rfl).1
    exact .eof hc h hcv hev (hdiag ▸ ht)
  | silent hc he h => exact .silent hc he (h.from_same rfl rfl rfl)

/-! ### The silent operations of the parser (spec/43_parser.md, spec/60_exceptions.md R200, R203) -/

theorem diagPush_silent (b : Byte) (s : State) : Silent s (diagPush b s) := by
  rcases diagPush_cases b s with ⟨-, h⟩ | ⟨-, h⟩ <;> rw [h]
  · exact ⟨rfl, rfl, .inr ⟨.txq, b, .inl rfl⟩⟩
  · exact .of_same rfl rfl rfl

theorem enterError_silent (c : Cause) (s : State) : Silent s (enterError c s) :=
  (diagPush_silent _ _).from_same rfl rfl rfl

theorem recordKind_silent (t : Byte) (s : State) : Silent s (recordKind t s) := by
  rw [recordKind]
  split
  · exact .of_same rfl rfl rfl
  · split
    · exact .of_same rfl rfl rfl
    · exact enterError_silent .recType s

theorem bcNib_silent (v : Nibble) (s : State) : Silent s (bcNib v s) := by
  rw [bcNib]; split <;> exact .of_same rfl rfl rfl

theorem addrNib_silent (v : Nibble) (s : State) : Silent s (addrNib v s) := by
  rw [addrNib]
  split
  · exact .of_same rfl rfl rfl
  · dsimp only
    split
    · exact .of_same rfl rfl rfl
    · split <;> exact .of_same rfl rfl rfl

theorem rtNib_silent (v : Nibble) (s : State) : Silent s (rtNib v s) := by
  rw [rtNib]
  split
  · exact .of_same rfl rfl rfl
  · exact (recordKind_silent _ _).from_same rfl rfl rfl

theorem dataNib_silent {v : Nibble} {s t : State} (h : dataNib v s = .ok t) : Silent s t := by
  rw [dataNib] at h
  split at h
  · cases h; exact .of_same rfl rfl rfl
  · split at h
    · cases h
    · next happend =>
      cases h
      rw [(appendByte_cases happend).2]
      exact .of_same rfl rfl rfl

theorem errAny_silent (b : Byte) (s : State) : Silent s (errAny b s) := by
  rw [errAny]
  split
  · exact (diagPush_silent b s).to_same rfl rfl rfl
  · exact .of_same rfl rfl rfl

theorem startRecord_silent (s : State) : Silent s (startRecord s) := by
  apply Silent.of_same <;> simp [startRecord, cksumClear, beginPage, resetPending]

/-! ### The two rows that set a pulse (spec/43_parser.md R152, R154) -/

/-- The byte `b` is the last checksum nibble of a record whose sum is zero. -/
def ClosesGoodRecord (b : Byte) (s : State) : Prop :=
  s.pstate = .checksum ∧ isHex b = true ∧ s.pend.nibPhase = true ∧
    s.cksum + (s.pend.acc.extractLsb' 4 4 ++ nibbleOf b) = 0x00

/-- The next byte is the second one drained at the end of an End-Of-File record. -/
def DrainsLastByte (s : State) : Prop := s.pstate = .endState ∧ s.pend.ckRem = 1

/-- The last nibble of a record decides by the sum with its byte added; a first one decides nothing. -/
theorem ckNib_notifies {b : Byte} {s : State} (hp : s.pstate = .checksum) (hb : isHex b = true) :
    Notifies (ClosesGoodRecord b s) (DrainsLastByte s) s (ckNib (nibbleOf b) s) := by
  have hend : ¬ DrainsLastByte s := fun ⟨hp', _⟩ => nomatch hp.symm.trans hp'
  cases hn : s.pend.nibPhase with
  | false =>
    rw [ckNib_high _ hn]
    exact .silent (fun ⟨_, _, hn', _⟩ => nomatch hn.symm.trans hn') hend (.of_same rfl rfl rfl)
  | true =>
    rw [ckNib_low _ hn rfl]
    by_cases hsum : s.cksum + (s.pend.acc.extractLsb' 4 4 ++ nibbleOf b) = 0x00
    · rw [closeRecord_of_zero hsum]
      exact .commit ⟨hp, hb, hn, hsum⟩ hend rfl rfl rfl
    · rw [closeRecord_of_ne_zero hsum]
      exact .silent (fun ⟨_, _, _, hsum'⟩ => hsum hsum') hend ((enterError_silent .checksum _).from_same rfl rfl rfl)

/-- The second drained byte ends the file; the first one is only counted. -/
theorem endAny_notifies {b : Byte} {s : State} (hp : s.pstate = .endState) :
    Notifies (ClosesGoodRecord b s) (DrainsLastByte s) s (endAny s) := by
  have hck : ¬ ClosesGoodRecord b s := fun ⟨hp', _⟩ => nomatch hp.symm.trans hp'
  rw [endAny]
  split
  · next hlast => apply Notifies.eof hck ⟨hp, hlast⟩ <;> simp [resetPending]
  · next hfirst => exact .silent hck (fun ⟨_, hlast⟩ => hfirst hlast) (.of_same rfl rfl rfl)

/-! ### `ParserStep` (spec/30_encoding.md R66) -/

theorem selectPstep_eq_ckNib_iff {r : Bool} {st : PState} {b : Byte} :
    selectPstep r st b = .ckNib ↔ st = .checksum ∧ isHex b = true := by
  cases st with
  | init => cases hc : symbolClass b <;> simp [selectPstep, hc]
  | endState => simp [selectPstep]
  | _ => simp only [selectPstep]; split <;> simp [*]

theorem selectPstep_eq_endAny_iff {r : Bool} {st : PState} {b : Byte} :
    selectPstep r st b = .endAny ↔ st = .endState := by
  cases st with
  | init => cases hc : symbolClass b <;> simp [selectPstep, hc]
  | endState => simp [selectPstep]
  | _ => simp only [selectPstep]; split <;> simp [*]

/-- Every row but `P.CK.NIB` and `P.END.ANY` is silent. -/
theorem parserStep_silent {b : Byte} {s t : State} (h : parserStep b s = .ok t)
    (hck : selectPstep s.cfg.resyncOnColon s.pstate b ≠ .ckNib)
    (hend : selectPstep s.cfg.resyncOnColon s.pstate b ≠ .endAny) : Silent s t := by
  rw [parserStep] at h
  split at h
  case h_10 => exact dataNib_silent h
  case h_12 hop => exact absurd hop hck
  case h_14 hop => exact absurd hop hend
  all_goals cases h
  case h_1 => exact .of_same rfl rfl rfl
  case h_2 | h_16 => exact (startRecord_silent s).to_same rfl rfl rfl
  case h_4 => exact bcNib_silent _ s
  case h_6 => exact addrNib_silent _ s
  case h_8 => exact rtNib_silent _ s
  case h_15 => exact errAny_silent b s
  all_goals exact enterError_silent .framing s

theorem parserStep_notifies {b : Byte} {s t : State} (h : parserStep b s = .ok t) :
    Notifies (ClosesGoodRecord b s) (DrainsLastByte s) s t := by
  by_cases hck : selectPstep s.cfg.resyncOnColon s.pstate b = .ckNib
  · obtain ⟨hp, hb⟩ := selectPstep_eq_ckNib_iff.mp hck
    rw [parserStep_hex_of_checksum hp hb] at h
    cases h
    exact ckNib_notifies hp hb
  by_cases hend : selectPstep s.cfg.resyncOnColon s.pstate b = .endAny
  · rw [parserStep, hend] at h
    cases h
    exact endAny_notifies (selectPstep_eq_endAny_iff.mp hend)
  · exact .silent (fun ⟨hp, hb, _⟩ => hck (selectPstep_eq_ckNib_iff.mpr ⟨hp, hb⟩))
      (fun ⟨hp, _⟩ => hend (selectPstep_eq_endAny_iff.mpr hp)) (parserStep_silent h hck hend)

/-! ### The core edge (spec/45_orchestrator.md R185 to R189) -/

/-- The byte at the removal cursor of the staging queue (spec/40_bytequeue.md R83). -/
def State.stagedByte (s : State) : Byte := s.stq.mem.read .stqMem s.stq.out

/-- `CORE.PARSE` tells the host what the parser tells it of the staged byte, and nothing where none is staged. -/
theorem coreParse_notifies {s t : State} (h : coreParse s = .ok t) :
    Notifies (s.stq.cnt ≠ 0 ∧ ClosesGoodRecord s.stagedByte s) (s.stq.cnt ≠ 0 ∧ DrainsLastByte s) s t := by
  rw [coreParse] at h
  cases hd : stqDeq s with
  | error _ => rw [hd] at h; cases h
  | ok r =>
    rw [hd] at h
    rcases stqDeq_cases hd with ⟨hcnt, rfl⟩ | ⟨hcnt, -, rfl⟩
    · cases h
      exact .silent (fun hc => hc.1 hcnt) (fun he => he.1 hcnt) (.of_same rfl rfl rfl)
    · dsimp only at h
      split at h
      · cases h
      · next u hp =>
        cases h
        have hparser := (parserStep_notifies hp).of_setStq.to_same (t' := u.setPhase .arm) rfl rfl rfl
        exact hparser.congr (and_iff_right hcnt).symm (and_iff_right hcnt).symm

theorem pumpMove_silent {s t : State} (h : pumpMove s = .ok t) : Silent s t := by
  rw [pumpMove] at h
  rcases aqPop_cases .rxq s with ⟨-, hq⟩ | ⟨-, hq⟩ <;> rw [hq] at h <;> dsimp only at h
  · cases h; exact .of_same rfl rfl rfl
  · split at h
    · cases h
    · next henq =>
      cases h
      rcases stqEnq_cases henq with ⟨-, hr⟩ | ⟨-, -, hr⟩ <;> cases hr
      · exact ⟨rfl, rfl, .inr ⟨.rxq, _, .inr rfl⟩⟩
      · exact .of_same rfl rfl rfl

theorem clearParser_trace (s : State) : (clearParser s).trace = s.trace := by
  simp [clearParser, cksumClear, resetPending]

/-- From cleared pulses, every operation but `CORE.PARSE` is silent; `CORE.CLR` clears them once more. -/
theorem core_operation_silent {i : Instr} {s u : State} (hcv : s.commitValid = false) (hev : s.eofValid = false)
    (hi : i = .coreClr ∨ i = .corePumpMove ∨ i = .corePumpDone ∨ i = .coreParseNop ∨ i = .coreArm)
    (hu : exec i s = .next u) : Silent s u := by
  rcases hi with rfl | rfl | rfl | rfl | rfl
  · cases hu; exact .of_same hcv.symm hev.symm (clearParser_trace s)
  · exact pumpMove_silent (toOut_eq_next hu)
  · cases hu; exact .of_same rfl rfl rfl
  · cases hu; exact .of_same rfl rfl rfl
  · cases hu; simp only [coreArm, armRequest]; split <;> exact .of_same rfl rfl rfl

/-- The edge consumes a staged byte: it is not a clear, and the sequencer is at PARSE with something to parse. -/
def ConsumesByte (clr : Bool) (s : State) : Prop := clr = false ∧ s.phase = .parse ∧ s.stq.cnt ≠ 0

theorem fetch_core_of_consumesByte {clr l l' : Bool} {s : State} (h : ConsumesByte clr s) :
    fetch (.core clr l l') s = .ok (.coreParse, []) := by
  obtain ⟨rfl, hp, hcnt⟩ := h
  rw [fetch_core_parse hp]
  simp [State.stqEmpty, hcnt]

/-- A core edge tells the host, from pulses cleared, of exactly the two events that a consumed byte can bring about. -/
theorem stepWith_core_notifies {clr l l' : Bool} {s t : State} (h : stepWith (.core clr l l') s = .next t) :
    Notifies (ConsumesByte clr s ∧ ClosesGoodRecord s.stagedByte s) (ConsumesByte clr s ∧ DrainsLastByte s)
      (clearPulses s) t := by
  obtain ⟨i, rest, u, hf, hu, rfl⟩ := stepWith_cases h
  refine Notifies.to_same (t := u) ?_ rfl rfl rfl
  by_cases hi : i = .coreParse
  · subst hi
    obtain ⟨rfl, hp⟩ := phase_of_fetch_parse hf
    have hparse : coreParse (clearPulses s) = .ok u := toOut_eq_next hu
    have hcnt : s.stq.cnt ≠ 0 ↔ ConsumesByte false s := by simp [ConsumesByte, hp]
    exact (coreParse_notifies hparse).congr (and_congr_left' hcnt) (and_congr_left' hcnt)
  · have hnot : ¬ ConsumesByte clr s := fun hc => by
      rw [fetch_core_of_consumesByte hc] at hf
      cases hf
      exact hi rfl
    have hother := fetch_core_cases hf
    simp only [hi, false_or] at hother
    exact .silent (fun hc => hnot hc.1) (fun he => hnot he.1) (core_operation_silent rfl rfl hother hu)

/-! ### The edges of the other domains -/

theorem stepWith_rx_keeps_pulses {v l : Bool} {d : Byte} {s t : State} (h : stepWith (.rx v d l) s = .next t) :
    t.commitValid = s.commitValid ∧ t.eofValid = s.eofValid := by
  obtain ⟨i, rest, u, hf, hu, rfl⟩ := stepWith_cases h
  rcases fetch_rx_cases hf with rfl | rfl | rfl <;> cases hu
  · exact ⟨rfl, rfl⟩
  · rcases aqPush_cases .rxq d s with ⟨-, hq⟩ | ⟨-, hq⟩ <;> simp only [beginEdge, rxPush, hq] <;> exact ⟨rfl, rfl⟩
  · exact ⟨rfl, rfl⟩

theorem stepWith_tx_keeps_pulses {r l l' : Bool} {s t : State} (h : stepWith (.tx r l l') s = .next t) :
    t.commitValid = s.commitValid ∧ t.eofValid = s.eofValid := by
  obtain ⟨i, rest, u, hf, hu, rfl⟩ := stepWith_cases h
  rcases fetch_tx_cases hf with rfl | rfl | rfl <;> cases hu
  · rcases aqPop_cases .txq s with ⟨-, hq⟩ | ⟨-, hq⟩ <;> simp only [beginEdge, txSend, hq] <;> exact ⟨rfl, rfl⟩
  · exact ⟨rfl, rfl⟩
  · exact ⟨rfl, rfl⟩

/-- What an edge that starts from cleared pulses leaves in them, and the event that belongs to each. -/
theorem Notifies.pulses {c e : Prop} {s t : State} (h : Notifies c e (clearPulses s) t) :
    (t.commitValid = true ↔ c) ∧ (t.eofValid = true ↔ e) ∧
    (t.commitValid = true → t.trace = .commit s.page.addr s.page.bytes s.page.len :: s.trace) ∧
    (t.eofValid = true → t.trace = .eof :: (diagPush s.cfg.diagEof s).trace) ∧
    (t.commitValid = false → t.eofValid = false →
      t.trace = s.trace ∨ ∃ q d, t.trace = .drop q d :: s.trace ∨ t.trace = .dropStaging d :: s.trace) := by
  cases h with
  | commit h he hcv hev ht =>
    have hlow : t.eofValid ≠ true := ne_true_of_eq_false hev
    exact ⟨iff_of_true hcv h, iff_of_false hlow he, fun _ => ht, fun hev' => absurd hev' hlow,
      fun hcv' => nomatch hcv.symm.trans hcv'⟩
  | eof hc h hcv hev ht =>
    have hlow : t.commitValid ≠ true := ne_true_of_eq_false hcv
    have hdiag := (diagPush_trace_txq_congr s.cfg.diagEof (s := clearPulses s) (t := s) rfl rfl rfl).1
    exact ⟨iff_of_false hlow hc, iff_of_true hev h, fun hcv' => absurd hcv' hlow, fun _ => hdiag ▸ ht,
      fun _ hev' => nomatch hev.symm.trans hev'⟩
  | silent hc he h =>
    have hcv : t.commitValid ≠ true := ne_true_of_eq_false h.commitValid
    have hev : t.eofValid ≠ true := ne_true_of_eq_false h.eofValid
    exact ⟨iff_of_false hcv hc, iff_of_false hev he, fun hcv' => absurd hcv' hcv, fun hev' => absurd hev' hev,
      fun _ _ => h.trace⟩

/-- Settles O53: a core edge clears the pulses, and of its operations only the parser's two rows set one again, each
with its event. -/
theorem pulsesExactlyAtAGoodChecksumOrEndOfFile : Obligations.PulsesExactlyAtAGoodChecksumOrEndOfFile := by
  intro s t clr l1 l2 b h hb
  subst hb
  obtain ⟨hcommit, heof, hcommitEvent, heofEvent, hsilent⟩ := (stepWith_core_notifies h).pulses
  refine ⟨hcommit.trans ?_, heof.trans ?_, hcommitEvent, heofEvent, fun _ _ _ _ => stepWith_rx_keeps_pulses,
    fun _ _ _ _ => stepWith_tx_keeps_pulses, hsilent⟩
  · simp only [ClosesGoodRecord, ConsumesByte, and_assoc, State.stagedByte]
  · simp only [DrainsLastByte, ConsumesByte, and_assoc]

end Sys2Proof.Machine

/-! PROOFS. How the Error state is left (spec/60_exceptions.md R204). The edges of the other domains and every core operation but `CORE.CLR` and `CORE.PARSE` keep the parser's registers, so a parser in Error stays there; `CORE.PARSE` hands the staged byte to the parser, whose two Error rows part on a `:` with `RESYNC_ON_COLON`; and each operation that does leave Error writes a start of a record. -/

namespace Sys2Proof.Machine

/-! ### What keeps the parser -/

/-- From `s` to `t` the parser is not touched: its state, its registers and the page stay. -/
structure ParserKept (s t : State) : Prop where
  pstate : t.pstate = s.pstate
  pend : t.pend = s.pend
  cksum : t.cksum = s.cksum
  page : t.page = s.page
  errCause : t.errCause = s.errCause

theorem setPhase_keepsParser (p : Phase) (s : State) : ParserKept s (s.setPhase p) := ⟨rfl, rfl, rfl, rfl, rfl⟩

theorem endEdge_keepsParser (e : EnvStep) (s : State) : ParserKept s (endEdge e s) := by
  cases e <;> exact ⟨rfl, rfl, rfl, rfl, rfl⟩

theorem stepWith_rx_keepsParser {v l : Bool} {d : Byte} {s t : State} (h : stepWith (.rx v d l) s = .next t) :
    ParserKept s t := by
  obtain ⟨i, rest, u, hf, hu, rfl⟩ := stepWith_cases h
  rcases fetch_rx_cases hf with rfl | rfl | rfl <;> cases hu
  · exact ⟨rfl, rfl, rfl, rfl, rfl⟩
  · rcases aqPush_cases .rxq d s with ⟨-, hq⟩ | ⟨-, hq⟩ <;> simp only [beginEdge, rxPush, hq] <;>
      exact ⟨rfl, rfl, rfl, rfl, rfl⟩
  · exact ⟨rfl, rfl, rfl, rfl, rfl⟩

theorem stepWith_tx_keepsParser {r l l' : Bool} {s t : State} (h : stepWith (.tx r l l') s = .next t) :
    ParserKept s t := by
  obtain ⟨i, rest, u, hf, hu, rfl⟩ := stepWith_cases h
  rcases fetch_tx_cases hf with rfl | rfl | rfl <;> cases hu
  · rcases aqPop_cases .txq s with ⟨-, hq⟩ | ⟨-, hq⟩ <;> simp only [beginEdge, txSend, hq] <;>
      exact ⟨rfl, rfl, rfl, rfl, rfl⟩
  · exact ⟨rfl, rfl, rfl, rfl, rfl⟩
  · exact ⟨rfl, rfl, rfl, rfl, rfl⟩

theorem pumpMove_keepsParser {s t : State} (h : pumpMove s = .ok t) : ParserKept s t := by
  rw [pumpMove] at h
  rcases aqPop_cases .rxq s with ⟨-, hq⟩ | ⟨-, hq⟩ <;> rw [hq] at h <;> dsimp only at h
  · cases h; exact ⟨rfl, rfl, rfl, rfl, rfl⟩
  · split at h
    · cases h
    · next henq =>
      cases h
      rcases stqEnq_cases henq with ⟨-, hr⟩ | ⟨-, -, hr⟩ <;> cases hr <;> exact ⟨rfl, rfl, rfl, rfl, rfl⟩

/-- Of the core operations only `CORE.CLR` and `CORE.PARSE` touch the parser. -/
theorem core_operation_keepsParser {i : Instr} {s u : State}
    (hi : i = .corePumpMove ∨ i = .corePumpDone ∨ i = .coreParseNop ∨ i = .coreArm) (hu : exec i s = .next u) :
    ParserKept s u := by
  rcases hi with rfl | rfl | rfl | rfl
  · exact pumpMove_keepsParser (toOut_eq_next hu)
  · cases hu; exact setPhase_keepsParser .parse s
  · cases hu; exact setPhase_keepsParser .arm s
  · cases hu; simp only [coreArm, armRequest]; split <;> exact ⟨rfl, rfl, rfl, rfl, rfl⟩

/-! ### The start of a record -/

/-- The parser is at the start of a record, with nothing left of the one before and no error noted. -/
structure AtRecordStart (t : State) : Prop where
  pstate : t.pstate = .init ∨ t.pstate = .byteCount
  errCause : t.errCause = none
  pend : t.pend = PendingRecord.initial
  cksum : t.cksum = 0x00
  addr : t.page.addr = 0x0000
  len : t.page.len = 0

theorem AtRecordStart.of_kept {s t : State} (h : AtRecordStart s) (hk : ParserKept s t) : AtRecordStart t where
  pstate := hk.pstate ▸ h.pstate
  errCause := hk.errCause.trans h.errCause
  pend := hk.pend.trans h.pend
  cksum := hk.cksum.trans h.cksum
  addr := hk.page ▸ h.addr
  len := hk.page ▸ h.len

theorem AtRecordStart.pstate_ne_error {t : State} (h : AtRecordStart t) : t.pstate ≠ .error := by
  rcases h.pstate with hp | hp <;> simp [hp]

theorem resetStep_atRecordStart (s : State) : AtRecordStart (resetStep s) :=
  ⟨.inl rfl, rfl, rfl, rfl, rfl, rfl⟩

theorem clearParser_atRecordStart (s : State) : AtRecordStart (clearParser s) :=
  ⟨.inl rfl, rfl, rfl, rfl, rfl, rfl⟩

theorem errResync_atRecordStart (s : State) : AtRecordStart (errResync s) :=
  ⟨.inr rfl, rfl, rfl, rfl, rfl, rfl⟩

/-! ### The two outcomes in Error -/

/-- What becomes of a parser in Error: at `t` it has left for the start of a record where `leaves` holds, and is in
Error still where it does not. -/
inductive ErrorOutcome (leaves : Prop) (t : State) : Prop where
  | left (h : leaves) (hstart : AtRecordStart t)
  | stays (h : ¬ leaves) (herr : t.pstate = .error)

theorem ErrorOutcome.congr {p q : Prop} {t : State} (h : ErrorOutcome p t) (hpq : p ↔ q) : ErrorOutcome q t := by
  rwa [← hpq]

theorem ErrorOutcome.of_kept {p : Prop} {t t' : State} (h : ErrorOutcome p t) (hk : ParserKept t t') :
    ErrorOutcome p t' := by
  cases h with
  | left h hstart => exact .left h (hstart.of_kept hk)
  | stays h herr => exact .stays h (hk.pstate.trans herr)

theorem ErrorOutcome.pstate_ne_error_iff {p : Prop} {t : State} (h : ErrorOutcome p t) : t.pstate ≠ .error ↔ p := by
  cases h with
  | left h hstart => exact iff_of_true hstart.pstate_ne_error h
  | stays h herr => exact iff_of_false (not_not_intro herr) h

theorem ErrorOutcome.atRecordStart {p : Prop} {t : State} (h : ErrorOutcome p t) (hne : t.pstate ≠ .error) :
    AtRecordStart t := by
  cases h with
  | left h hstart => exact hstart
  | stays h herr => exact absurd herr hne

/-! ### The parser's two rows in Error (spec/43_parser.md R156, R157) -/

@[simp] theorem errAny_pstate (b : Byte) (s : State) : (errAny b s).pstate = .error := rfl

/-- The byte `b` is the `:` that takes a parser in Error to a new record. -/
def Resyncs (b : Byte) (s : State) : Prop := s.cfg.resyncOnColon = true ∧ b = 0x3A

theorem parserStep_error_resync {b : Byte} {s : State} (hp : s.pstate = .error) (hb : Resyncs b s) :
    parserStep b s = .ok (errResync s) := by
  obtain ⟨hr, rfl⟩ := hb
  simp [parserStep, selectPstep, hp, hr]

theorem parserStep_error_any {b : Byte} {s : State} (hp : s.pstate = .error) (hb : ¬ Resyncs b s) :
    parserStep b s = .ok (errAny b s) := by
  have hsel : ¬ (s.cfg.resyncOnColon && b == 0x3A) = true := by simpa [Resyncs] using hb
  rw [parserStep, hp, selectPstep, if_neg hsel]

theorem parserStep_errorOutcome {b : Byte} {s t : State} (h : parserStep b s = .ok t) (hp : s.pstate = .error) :
    ErrorOutcome (Resyncs b s) t := by
  by_cases hb : Resyncs b s
  · cases (parserStep_error_resync hp hb).symm.trans h
    exact .left hb (errResync_atRecordStart s)
  · cases (parserStep_error_any hp hb).symm.trans h
    exact .stays hb (errAny_pstate b s)

/-! ### The core edge in Error -/

theorem coreParse_errorOutcome {s t : State} (h : coreParse s = .ok t) (hp : s.pstate = .error) :
    ErrorOutcome (s.stq.cnt ≠ 0 ∧ Resyncs s.stagedByte s) t := by
  rw [coreParse] at h
  cases hd : stqDeq s with
  | error _ => rw [hd] at h; cases h
  | ok r =>
    rw [hd] at h
    rcases stqDeq_cases hd with ⟨hcnt, rfl⟩ | ⟨hcnt, -, rfl⟩
    · cases h
      exact .stays (fun ⟨hne, _⟩ => hne hcnt) hp
    · dsimp only at h
      split at h
      · cases h
      · next u hparse =>
        cases h
        have hparser := (parserStep_errorOutcome hparse hp).of_kept (setPhase_keepsParser .arm u)
        exact hparser.congr (and_iff_right hcnt).symm

theorem stepWith_clr_atRecordStart {l l' : Bool} {s t : State} (h : stepWith (.core true l l') s = .next t) :
    AtRecordStart t := by
  rw [stepWith, fetch_core_clr] at h
  cases h
  exact (clearParser_atRecordStart _).of_kept (endEdge_keepsParser _ _)

/-- An edge that neither clears nor consumes a byte fetches none of the two operations that touch the parser. -/
theorem fetch_core_of_not_consumesByte {l l' : Bool} {s : State} {i : Instr} {rest : List Byte}
    (hc : ¬ ConsumesByte false s) (h : fetch (.core false l l') s = .ok (i, rest)) :
    i = .corePumpMove ∨ i = .corePumpDone ∨ i = .coreParseNop ∨ i = .coreArm := by
  cases hphase : s.phase with
  | pump => rw [fetch_core_pump hphase] at h; cases h; split <;> simp
  | parse =>
    have hempty : s.stqEmpty = true := by simpa [ConsumesByte, hphase, State.stqEmpty] using hc
    rw [fetch_core_parse hphase, if_pos hempty] at h; cases h; simp
  | arm => rw [fetch_core_arm hphase] at h; cases h; simp

/-- Without a clear a core edge leaves Error exactly by consuming a `:` with `RESYNC_ON_COLON`. -/
theorem stepWith_core_errorOutcome {l l' : Bool} {s t : State} (h : stepWith (.core false l l') s = .next t)
    (hp : s.pstate = .error) :
    ErrorOutcome (ConsumesByte false s ∧ Resyncs s.stagedByte s) t := by
  obtain ⟨i, rest, u, hf, hu, rfl⟩ := stepWith_cases h
  refine ErrorOutcome.of_kept ?_ (endEdge_keepsParser _ u)
  by_cases hc : ConsumesByte false s
  · rw [fetch_core_of_consumesByte hc] at hf
    cases hf
    have hparse := coreParse_errorOutcome (toOut_eq_next hu) hp
    exact hparse.congr (and_congr_left' (iff_of_true hc.2.2 hc))
  · have hkept := core_operation_keepsParser (fetch_core_of_not_consumesByte hc hf) hu
    exact .stays (fun hleaves => hc hleaves.1) (hkept.pstate.trans hp)

/-! ### The three ways out (spec/60_exceptions.md R204) -/

/-- The step under `e` from `s` is `Reset`, `CORE.CLR`, or a `:` consumed with `RESYNC_ON_COLON`. -/
def WayOutOfError (e : EnvStep) (s : State) : Prop :=
  e = .rst ∨ (∃ l1 l2, e = .core true l1 l2) ∨
    ((∃ l1 l2, e = .core false l1 l2) ∧ s.phase = .parse ∧ s.stq.cnt ≠ 0 ∧
      s.cfg.resyncOnColon = true ∧ s.stagedByte = 0x3A)

theorem stepWith_errorOutcome {e : EnvStep} {s t : State} (h : stepWith e s = .next t) (hp : s.pstate = .error) :
    ErrorOutcome (WayOutOfError e s) t := by
  cases e with
  | rx v d l => exact .stays (by simp [WayOutOfError]) ((stepWith_rx_keepsParser h).pstate.trans hp)
  | tx r l l' => exact .stays (by simp [WayOutOfError]) ((stepWith_tx_keepsParser h).pstate.trans hp)
  | rst => exact .left (.inl rfl) (stepWith_rst_effect h ▸ resetStep_atRecordStart s)
  | core clr l l' =>
    cases clr with
    | true => exact .left (.inr (.inl ⟨l, l', rfl⟩)) (stepWith_clr_atRecordStart h)
    | false =>
      exact (stepWith_core_errorOutcome h hp).congr (by simp [WayOutOfError, ConsumesByte, Resyncs, and_assoc])

/-- Settles O52: every step from Error has one of the two outcomes, and it leaves exactly by the three ways. -/
theorem errorIsLeftInExactlyThreeWays : Obligations.ErrorIsLeftInExactlyThreeWays := by
  intro e s t hp h
  have houtcome := stepWith_errorOutcome h hp
  refine ⟨houtcome.pstate_ne_error_iff, fun hne => ?_⟩
  obtain ⟨hstate, hcause, hpend, hcksum, haddr, hlen⟩ := houtcome.atRecordStart hne
  exact ⟨hstate, hcause, hpend, hcksum, haddr, hlen⟩

end Sys2Proof.Machine

/-! PROOFS. What `CORE.CLR` writes (spec/70_reset_and_hazards.md R224). It resets the PendingRecord registers and the checksum as `ResetPending()` and `CksumClear()` do, and writes five registers more; the page keeps its data. -/

namespace Sys2Proof.Machine

theorem exec_coreClr (s : State) : exec .coreClr s = .next (clearParser s) := rfl

theorem resetPending_eq (s : State) : resetPending s = { s with
    pend := { bcRem := 2, addrRem := 4, rtRem := 2, ckRem := 2, acc := 0x00, nibPhase := false,
              recLen := 0x00, recType := 0x00 } } := rfl

/-- The registers written besides those of `ResetPending()`, over the state which that leaves (spec/43_parser.md
R160). -/
theorem clearParser_eq (s : State) : clearParser s = { resetPending s with
    pstate := .init
    errCause := none
    cksum := 0x00
    page := { s.page with addr := 0x0000, len := 0 }
    commitValid := false
    eofValid := false } := by
  rw [clearParser, cksumClear]
  rfl

/-- Settles O31: `CORE.CLR` is `ResetPending()` with the other parser registers written over it. -/
theorem parserClearReinitialisesTheParser : Obligations.ParserClearReinitialisesTheParser := by
  intro s
  rw [exec_coreClr, clearParser_eq, resetPending_eq]

end Sys2Proof.Machine

/-! PROOFS. The decoder (spec/30_encoding.md R66, R67, R70). Every format is inverted once: what a frame of it decodes to, how many bytes it consumes, and what the decoded instruction is. For format PSTEP all of it goes through one equation: the instruction selected by a parser state and a byte has their frame as its encoding. -/

namespace Sys2Proof.Machine

/-! ### The PSTEP selector (spec/30_encoding.md R66) -/

/-- The Init rows of the table, by the bytes of their classes. -/
theorem selectPstep_init (r : Bool) (b : Byte) :
    selectPstep r .init b = if b = 0x0D ∨ b = 0x0A then .initSkip else if b = 0x3A then .initStart else .initBad := by
  simp only [selectPstep]
  revert b
  decide

theorem pstateOfCode_pstateCode (st : PState) : pstateOfCode ((pstateCode st).setWidth 8).toNat = st := by
  cases st <;> rfl

theorem pstateCode_lt (st : PState) : ((pstateCode st).setWidth 8).toNat < 8 := by
  cases st <;> decide

theorem decode_pstepFrame (r : Bool) (st : PState) (b : Byte) (rest : List Byte) :
    decode r .pstep (pstepFrame st b ++ rest) = .ok ((selectPstep r st b).toInstr b, rest) := by
  simp only [pstepFrame, List.cons_append, List.nil_append, decode, if_pos (pstateCode_lt st), pstateOfCode_pstateCode]

/-- The instruction that a parser state and a byte select has the frame of the two as its encoding. -/
theorem encode_selectPstep (r : Bool) (st : PState) (b : Byte) :
    encode ((selectPstep r st b).toInstr b) = some (.pstep, pstepFrame st b) := by
  cases st with
  | init =>
    rw [selectPstep_init]
    split
    · rfl
    · split
      · next hb => rw [hb]; rfl
      · rfl
  | endState => rfl
  | error =>
    rw [selectPstep]
    split
    · next hb =>
      obtain ⟨-, hb⟩ : r = true ∧ b = 0x3A := by simpa using hb
      rw [hb]; rfl
    · rfl
  | _ => rw [selectPstep]; split <;> rfl

theorem wf_pErrAny_iff {r : Bool} {b : Byte} : (Instr.pErrAny b).wf r = true ↔ ¬ (r && b == 0x3A) = true := by
  cases r <;> simp [Instr.wf]

/-- The byte lies in the symbol classes of the row that it selects. -/
theorem selectPstep_wf (r : Bool) (st : PState) (b : Byte) : ((selectPstep r st b).toInstr b).wf r = true := by
  cases st with
  | init =>
    rw [selectPstep_init]
    split
    · next hb => simpa [PstepOp.toInstr, Instr.wf] using hb
    · next hskip =>
      split
      · rfl
      · next hcolon => simpa [PstepOp.toInstr, Instr.wf, not_or, and_assoc] using And.intro hcolon (not_or.mp hskip)
  | endState => rfl
  | error =>
    rw [selectPstep]
    split
    · next hb => exact (Bool.and_eq_true_iff.mp hb).1
    · next hb => exact wf_pErrAny_iff.mpr hb
  | _ => rw [selectPstep]; split <;> simp_all [PstepOp.toInstr, Instr.wf]

/-! ### Decode after encode -/

/-- A row is read back from the frame of a state and a byte that select it. -/
theorem decode_pstepFrame_of_row {r : Bool} {st : PState} {b : Byte} {i : Instr} (rest : List Byte)
    (h : (selectPstep r st b).toInstr b = i) : decode r .pstep (pstepFrame st b ++ rest) = .ok (i, rest) := by
  rw [decode_pstepFrame, h]

theorem selectRecord_unsupported {t : Byte} (h : t ≠ 0x00 ∧ t ≠ 0x01) : selectRecord t = .recUnsupported t := by
  rw [selectRecord, if_neg h.1, if_neg h.2]

theorem decodeQueue_encodeQueue (q : QueueId) : decodeQueue (encodeQueue q) = .ok q := by
  cases q <;> rfl

theorem decode_encode_aqPush (r : Bool) (q : QueueId) (b : Byte) (rest : List Byte) :
    decode r (.qop .aqPush) (0x2 :: encodeQueue q :: b :: rest) = .ok (.aqPush q b, rest) := by
  simp only [decode, decodeQop, decodeQueue_encodeQueue]
  rfl

theorem decode_encode_aqPop (r : Bool) (q : QueueId) (rest : List Byte) :
    decode r (.qop .aqPop) (0x2 :: encodeQueue q :: rest) = .ok (.aqPop q, rest) := by
  simp only [decode, decodeQop, decodeQueue_encodeQueue]
  rfl

/-- Settles O43: a parser row is read back because its byte's class selects it, a record kind because of its type
byte; every other frame has the vector written out. -/
theorem decodeOfEncodeIsTheInstruction : Obligations.DecodeOfEncodeIsTheInstruction := by
  intro r i f bs rest hwf henc
  cases i <;> cases henc
  case pInitSkip b =>
    have hb : b = 0x0D ∨ b = 0x0A := by simpa [Instr.wf] using hwf
    exact decode_pstepFrame_of_row rest (by rw [selectPstep_init, if_pos hb]; rfl)
  case pInitStart => exact decode_pstepFrame_of_row rest rfl
  case pInitBad b =>
    obtain ⟨⟨hcolon, hcr⟩, hlf⟩ : (b ≠ 0x3A ∧ b ≠ 0x0D) ∧ b ≠ 0x0A := by simpa [Instr.wf] using hwf
    exact decode_pstepFrame_of_row rest (by rw [selectPstep_init, if_neg (not_or.mpr ⟨hcr, hlf⟩), if_neg hcolon]; rfl)
  case pBcNib | pAddrNib | pRtNib | pDataNib | pCkNib =>
    exact decode_pstepFrame_of_row rest (by rw [selectPstep, if_pos (show isHex _ = true from hwf)]; rfl)
  case pBcBad | pAddrBad | pRtBad | pDataBad | pCkBad =>
    exact decode_pstepFrame_of_row rest (by rw [selectPstep, if_neg (by simpa [Instr.wf] using hwf)]; rfl)
  case pEndAny => exact decode_pstepFrame_of_row rest rfl
  case pErrAny =>
    exact decode_pstepFrame_of_row rest (by rw [selectPstep, if_neg (wf_pErrAny_iff.mp hwf)]; rfl)
  case pErrResync =>
    have hr : r = true := hwf
    exact decode_pstepFrame_of_row rest (by rw [hr]; rfl)
  case recUnsupported t =>
    have ht : t ≠ 0x00 ∧ t ≠ 0x01 := by simpa [Instr.wf] using hwf
    exact congrArg (fun i => Except.ok (i, rest)) (selectRecord_unsupported ht)
  case aqPush q b => exact decode_encode_aqPush r q b rest
  case aqPop q => exact decode_encode_aqPop r q rest
  all_goals rfl

/-! ### What each format decodes to (spec/30_encoding.md R67, R70) -/

/-- The instruction `i` is an operation of format `f`: its operands pass its checks, and it has a frame of that
format. -/
def IsRowOf (r : Bool) (f : Format) (i : Instr) : Prop := i.wf r = true ∧ ∃ cs, encode i = some (f, cs)

theorem selectPstep_isRowOf (r : Bool) (st : PState) (b : Byte) :
    IsRowOf r .pstep ((selectPstep r st b).toInstr b) := ⟨selectPstep_wf r st b, _, encode_selectPstep r st b⟩

theorem selectRecord_isRowOf (r : Bool) (t : Byte) : IsRowOf r .rectype (selectRecord t) := by
  rw [selectRecord]
  split
  · exact ⟨rfl, _, rfl⟩
  · split
    · exact ⟨rfl, _, rfl⟩
    · next h0 h1 => exact ⟨by simpa [Instr.wf] using And.intro h0 h1, _, rfl⟩

theorem decodeRxVector_isRowOf {r : Bool} {v : Nat} {d : Byte} {i : Instr} (h : decodeRxVector v d = .ok i) :
    IsRowOf r .rxedge i := by
  rw [decodeRxVector.eq_def] at h
  split at h <;> cases h <;> exact ⟨rfl, _, rfl⟩

theorem decodeCoreVector_isRowOf {r : Bool} {v : Nat} {i : Instr} (h : decodeCoreVector v = .ok i) :
    IsRowOf r .coreedge i := by
  rw [decodeCoreVector.eq_def] at h
  split at h
  case h_9 => split at h <;> cases h; exact ⟨rfl, _, rfl⟩
  all_goals cases h <;> exact ⟨rfl, _, rfl⟩

theorem decodeTxVector_isRowOf {r : Bool} {v : Nat} {i : Instr} (h : decodeTxVector v = .ok i) :
    IsRowOf r .txedge i := by
  rw [decodeTxVector.eq_def] at h
  split at h
  case h_3 => split at h <;> cases h; exact ⟨rfl, _, rfl⟩
  all_goals cases h; exact ⟨rfl, _, rfl⟩

/-- A QOP vector with its request bit set gives the primitive itself. -/
theorem decodeQopVector_eq_ok {v : Nat} {i j : Instr} (h : decodeQopVector v i = .ok j) : j = i := by
  rw [decodeQopVector.eq_def] at h
  split at h <;> cases h <;> rfl

theorem map_pair_eq_ok {r : Except DecodeError Instr} {rest rest' : List Byte} {i : Instr}
    (h : r.map (·, rest) = .ok (i, rest')) : r = .ok i ∧ rest' = rest := by
  cases r with
  | error e => cases h
  | ok j => cases h; exact ⟨rfl, rfl⟩

/-- What a QOP frame decodes to, with the bytes it consumes. -/
theorem decodeQop_eq_ok {r : Bool} {p : QueuePrimitive} {bs rest : List Byte} {i : Instr}
    (h : decodeQop p bs = .ok (i, rest)) :
    IsRowOf r (.qop p) i ∧ bs.length = (Format.qop p).length + rest.length := by
  rw [decodeQop.eq_def] at h
  split at h
  case h_5 => cases h
  case h_3 | h_4 =>
    split at h
    · obtain ⟨hv, rfl⟩ := map_pair_eq_ok h
      rw [decodeQopVector_eq_ok hv]
      exact ⟨⟨rfl, _, rfl⟩, by simp only [List.length_cons, Format.length]; omega⟩
    · cases h
  all_goals
    obtain ⟨hv, rfl⟩ := map_pair_eq_ok h
    rw [decodeQopVector_eq_ok hv]
    exact ⟨⟨rfl, _, rfl⟩, by simp only [List.length_cons, Format.length]; omega⟩

/-- What a frame decodes to, with the bytes it consumes. -/
theorem decode_eq_ok {r : Bool} {f : Format} {bs rest : List Byte} {i : Instr} (h : decode r f bs = .ok (i, rest)) :
    IsRowOf r f i ∧ bs.length = f.length + rest.length := by
  rw [decode.eq_def] at h
  split at h
  · split at h <;> cases h
    exact ⟨selectPstep_isRowOf _ _ _, by simp only [List.length_cons, Format.length]; omega⟩
  · cases h
    exact ⟨selectRecord_isRowOf _ _, by simp only [List.length_cons, Format.length]; omega⟩
  · obtain ⟨hv, rfl⟩ := map_pair_eq_ok h
    exact ⟨decodeRxVector_isRowOf hv, by simp only [List.length_cons, Format.length]; omega⟩
  · obtain ⟨hv, rfl⟩ := map_pair_eq_ok h
    exact ⟨decodeCoreVector_isRowOf hv, by simp only [List.length_cons, Format.length]; omega⟩
  · obtain ⟨hv, rfl⟩ := map_pair_eq_ok h
    exact ⟨decodeTxVector_isRowOf hv, by simp only [List.length_cons, Format.length]; omega⟩
  · exact decodeQop_eq_ok h
  · split at h
    · cases h
      exact ⟨⟨rfl, _, rfl⟩, by simp only [List.length_cons, Format.length]; omega⟩
    · split at h <;> cases h
  · cases h

/-- The frame of an encoded instruction has the length of its format. -/
theorem encode_length {i : Instr} {f : Format} {cs : List Byte} (h : encode i = some (f, cs)) :
    cs.length = f.length := by
  cases i <;> cases h <;> rfl

/-- Settles O44: what each format decodes to is a row of it, and the bytes consumed are those of the format. -/
theorem decodedInstructionsAreWellFormed : Obligations.DecodedInstructionsAreWellFormed := by
  intro r f bs rest i h
  obtain ⟨⟨hwf, cs, henc⟩, hlen⟩ := decode_eq_ok h
  exact ⟨hwf, cs, henc, by rw [hlen, encode_length henc]⟩

/-! ### Words and selectors -/

/-- Settles O41: each word is read in the format of its width. -/
theorem writtenOutWordsDecode : Obligations.WrittenOutWordsDecode :=
  ⟨rfl, rfl, rfl, rfl, rfl, rfl, rfl, rfl, rfl, rfl, rfl⟩

/-! ### Every selector has one row (spec/30_encoding.md R71) -/

/-- The rows of one parser state, the two at selector `7:0x3A` apart. -/
def pstepRowsOf : PState → List PstepRow
  | .init => pstepRowsInit
  | .byteCount => pstepRowsByteCount
  | .address => pstepRowsAddress
  | .recordType => pstepRowsRecordType
  | .data => pstepRowsData
  | .checksum => pstepRowsChecksum
  | .endState => pstepRowsEnd
  | .error => pstepRowsError

/-- The operations of the rows in a list that a selector selects. -/
def selectedOps (v : Nat) (rows : List PstepRow) : List PstepOp := (rows.filter (·.selects v)).map PstepRow.op

@[simp] theorem selectedOps_append (v : Nat) (xs ys : List PstepRow) :
    selectedOps v (xs ++ ys) = selectedOps v xs ++ selectedOps v ys := by
  simp [selectedOps]

/-- Every row of a state fixes the state's three bits of the selector. -/
theorem pstepRowsOf_state (st : PState) :
    ∀ row ∈ pstepRowsOf st, row.mask >>> 8 = 2 ^ 3 - 1 ∧ row.pattern >>> 8 = (pstateCode st).toNat := by
  cases st <;> decide

/-- No row of a state is selected by a selector with other state bits. -/
theorem selectedOps_eq_nil {st : PState} {v : Nat} (hv : v >>> 8 < 2 ^ 3) (h : v >>> 8 ≠ (pstateCode st).toNat) :
    selectedOps v (pstepRowsOf st) = [] := by
  rw [selectedOps, List.map_eq_nil_iff, List.filter_eq_nil_iff]
  intro row hrow hsel
  obtain ⟨hmask, hpattern⟩ := pstepRowsOf_state st row hrow
  apply h
  rw [← hpattern, ← beq_iff_eq.mp hsel, Nat.shiftRight_and_distrib, hmask, Nat.and_two_pow_sub_one_eq_mod,
    Nat.mod_eq_of_lt hv]

/-- The rows of a state over the 256 bytes: one row each, and for `7:0x3A` none of these. -/
theorem selectedOps_own (st : PState) : ∀ c < 256, selectedOps (256 * (pstateCode st).toNat + c) (pstepRowsOf st) =
    if st = .error ∧ c = 0x3A then [] else [selectPstep false st (BitVec.ofNat 8 c)] := by
  cases st <;> decide +kernel

/-- `RESYNC_ON_COLON` matters for a `:` in Error only. -/
theorem selectPstep_resync (r : Bool) {st : PState} {b : Byte} (h : ¬ (st = .error ∧ b = 0x3A)) :
    selectPstep r st b = selectPstep false st b := by
  cases st with
  | error =>
    have hb : ¬ (r && b == 0x3A) = true := by simpa using fun _ => not_and.mp h rfl
    rw [selectPstep, if_neg hb]
    rfl
  | _ => rfl

theorem pstateOfCode_toNat (st : PState) : pstateOfCode (pstateCode st).toNat = st := by
  cases st <;> rfl

theorem pstateCode_pstateOfCode : ∀ k < 8, (pstateCode (pstateOfCode k)).toNat = k := by
  decide

theorem selectedOps_pstepRows (r : Bool) (v : Nat) :
    selectedOps v (pstepRows r) =
      selectedOps v [⟨0x7FF, 0x73A, if r then .errResync else .errAny⟩] ++
      ([.init, .byteCount, .address, .recordType, .data, .checksum, .endState, .error].flatMap fun st =>
        selectedOps v (pstepRowsOf st)) := by
  rw [pstepRows, ← List.singleton_append]
  simp only [selectedOps_append, List.append_assoc, List.flatMap_cons, List.flatMap_nil, List.append_nil, pstepRowsOf]

/-- Of all the states' rows those of the selector's own state are left. -/
theorem selectedOps_states {v : Nat} (hv : v < 2048) :
    ([.init, .byteCount, .address, .recordType, .data, .checksum, .endState, .error].flatMap fun st =>
      selectedOps v (pstepRowsOf st)) = selectedOps v (pstepRowsOf (pstateOfCode (v / 256))) := by
  have hbits : v >>> 8 = v / 256 := Nat.shiftRight_eq_div_pow v 8
  generalize hown : pstateOfCode (v / 256) = own
  have hother (st : PState) (h : st ≠ own) : selectedOps v (pstepRowsOf st) = [] := by
    refine selectedOps_eq_nil (by omega) fun hst => h ?_
    have hcode : (pstateCode st).toNat = v / 256 := by omega
    rw [← hown, ← hcode, pstateOfCode_toNat]
  cases own <;> simp [hother]

theorem selectedOps_colon_row (v : Nat) (op : PstepOp) (hv : v < 2048) :
    selectedOps v [⟨0x7FF, 0x73A, op⟩] = if v = 0x73A then [op] else [] := by
  have hmask : v &&& 0x7FF = v := by
    rw [show 0x7FF = 2 ^ 11 - 1 from rfl, Nat.and_two_pow_sub_one_eq_mod, Nat.mod_eq_of_lt hv]
  by_cases h : v = 0x73A
  · simp [selectedOps, PstepRow.selects, h]
  · simp [selectedOps, PstepRow.selects, hmask, h]

/-- Settles O42: the selector's state leaves one state's rows, of which its byte selects one; `7:0x3A` is selected by
the row that the parameter picks. -/
theorem everySelectorHasExactlyOneRow : Obligations.EverySelectorHasExactlyOneRow := by
  intro r v hv
  change selectedOps v (pstepRows r) = _
  have hbyte : BitVec.ofNat 8 v = BitVec.ofNat 8 (v % 256) := by simp [← BitVec.toNat_inj]
  have hcolon : v = 0x73A ↔ pstateOfCode (v / 256) = .error ∧ v % 256 = 0x3A := by
    have herr : pstateOfCode (v / 256) = .error ↔ v / 256 = 7 :=
      (by decide : ∀ k < 8, pstateOfCode k = .error ↔ k = 7) _ (by omega)
    rw [herr]; omega
  have hown := selectedOps_own (pstateOfCode (v / 256)) (v % 256) (Nat.mod_lt _ (by decide))
  rw [pstateCode_pstateOfCode _ (by omega), Nat.div_add_mod] at hown
  rw [selectedOps_pstepRows, selectedOps_states hv, hown, selectedOps_colon_row v _ hv, hbyte]
  simp only [hcolon]
  split
  · next h => rw [h.1, h.2]; cases r <;> rfl
  · next h =>
    rw [selectPstep_resync r, List.nil_append]
    rintro ⟨hst, hb⟩
    refine h ⟨hst, ?_⟩
    simpa using congrArg BitVec.toNat hb

end Sys2Proof.Machine

/-! PROOFS. The two routes to a step (spec/30_encoding.md R66, R70, spec/41_transport.md R118, R119, spec/45_orchestrator.md R186). The row that a selector decodes to does what `ParserStep` does, and the operation that an edge's vector decodes to does what the edge's step function selects; and each completes where the array indices it uses exist. -/

namespace Sys2Proof.Machine

/-! ### `ParserStep` and the row it selects (spec/43_parser.md R136) -/

theorem guarded_of_ok {ok : Bool} (m : String) (h : ok = true) (r : Run State) : guarded m ok r = toOut r := if_pos h

theorem exec_parserStep (b : Byte) (s : State) : exec (.parserStep b) s = toOut (parserStep b s) := rfl

/-- The selected row runs as `ParserStep` does: its byte passes the row's check. -/
theorem exec_selectPstep (b : Byte) (s : State) :
    exec ((selectPstep s.cfg.resyncOnColon s.pstate b).toInstr b) s = exec (.parserStep b) s := by
  have hwf := selectPstep_wf s.cfg.resyncOnColon s.pstate b
  rw [exec_parserStep, parserStep]
  generalize selectPstep s.cfg.resyncOnColon s.pstate b = op at hwf
  cases op
  case initStart | endAny => rfl
  case bcNib | addrNib | rtNib | dataNib | ckNib => exact guarded_of_ok _ ((hexDecode_valid_eq_isHex b).trans hwf) _
  case bcBad | addrBad | rtBad | dataBad | ckBad =>
    exact guarded_of_ok _ ((congrArg (!·) (hexDecode_valid_eq_isHex b)).trans hwf) _
  all_goals exact guarded_of_ok _ hwf _

/-- The parser state whose row an operation is. -/
def rowState : PstepOp → PState
  | .initSkip | .initStart | .initBad => .init
  | .bcNib | .bcBad => .byteCount
  | .addrNib | .addrBad => .address
  | .rtNib | .rtBad => .recordType
  | .dataNib | .dataBad => .data
  | .ckNib | .ckBad => .checksum
  | .endAny => .endState
  | .errAny | .errResync => .error

theorem rowState_selectPstep (r : Bool) (st : PState) (b : Byte) : rowState (selectPstep r st b) = st := by
  cases st with
  | init => rw [selectPstep_init]; split <;> [rfl; (split <;> rfl)]
  | endState => rfl
  | _ => rw [selectPstep]; split <;> rfl

/-- An operation that is selected is a row of the present state. -/
theorem pstate_of_selectPstep {r : Bool} {st : PState} {b : Byte} {op : PstepOp} (h : selectPstep r st b = op) :
    st = rowState op := by
  rw [← h, rowState_selectPstep]

theorem dataNib_completes (v : Nibble) {s : State} (h : s.page.len < s.cfg.pageSize) : ∃ t, dataNib v s = .ok t := by
  cases hn : s.pend.nibPhase with
  | false => exact ⟨_, dataNib_high v hn⟩
  | true => exact ⟨_, dataNib_low v hn h rfl⟩

/-- `ParserStep` stops at a full page in Data and nowhere else. -/
theorem parserStep_completes (b : Byte) {s : State} (h : s.pstate = .data → s.page.len < s.cfg.pageSize) :
    ∃ t, parserStep b s = .ok t := by
  rw [parserStep]
  split
  case h_10 hop => exact dataNib_completes _ (h (pstate_of_selectPstep hop))
  all_goals exact ⟨_, rfl⟩

/-- Settles O13: the selector's frame is the one that `ParserStep`'s own selection encodes to. -/
theorem parserStepRunsTheSelectedRow : Obligations.ParserStepRunsTheSelectedRow := by
  intro s b hroom
  obtain ⟨t, ht⟩ := parserStep_completes b hroom
  have hexec : exec (.parserStep b) s = .next t := congrArg toOut ht
  exact ⟨_, t, decode_pstepFrame s.cfg.resyncOnColon s.pstate b [], (exec_selectPstep b s).trans hexec, hexec⟩

/-! ### The operations that an edge's vector selects (spec/30_encoding.md R70) -/

theorem stepWith_of_fetch {e : EnvStep} {s : State} {i : Instr} {rest : List Byte} (h : fetch e s = .ok (i, rest)) :
    stepWith e s = mapNext (endEdge e) (exec i (beginEdge e s)) := by
  rw [stepWith, h]

theorem fetch_rx_valid (d : Byte) (l : Bool) (s : State) :
    fetch (.rx true d l) s = .ok (if s.rxq.full s.cfg.rxAw then .rxDrop d else .rxPush d, []) := by
  cases hf : s.rxq.full s.cfg.rxAw <;>
    simp [fetch, fetchFrame, rxVector, hf, bit, decode, decodeRxVector, Except.map]

theorem fetch_tx_ready (l l' : Bool) (s : State) :
    fetch (.tx true l l') s =
      .ok (if s.tr.txIe then (if s.txq.empty then .txPark else .txSend) else .txIdle, []) := by
  cases hi : s.tr.txIe <;> cases he : s.txq.empty <;>
    simp [fetch, fetchFrame, txVector, hi, he, bit, decode, decodeTxVector, Except.map]

/-- The operation of a core edge, by `parser_clr`, the phase and the phase's condition. -/
def coreInstr (clr : Bool) (s : State) : Instr :=
  if clr then .coreClr
  else
    match s.phase with
    | .pump => if s.rxq.empty then .corePumpDone else .corePumpMove
    | .parse => if s.stqEmpty then .coreParseNop else .coreParse
    | .arm => .coreArm

theorem decodeCoreVector_coreVector (clr : Bool) (s : State) :
    decodeCoreVector (coreVector clr s) = .ok (coreInstr clr s) := by
  cases clr <;> cases hp : s.phase <;> cases hr : s.rxq.empty <;> cases hs : s.stqEmpty <;>
    simp [coreVector, coreCondition, coreInstr, hp, hr, hs, phaseCode, bit, decodeCoreVector]

theorem fetch_core_eq (clr l l' : Bool) (s : State) : fetch (.core clr l l') s = .ok (coreInstr clr s, []) := by
  cases clr with
  | true => exact fetch_core_clr l l' s
  | false =>
    rw [coreInstr]
    cases hp : s.phase with
    | pump => exact fetch_core_pump hp l l'
    | parse => exact fetch_core_parse hp l l'
    | arm => exact fetch_core_arm hp l l'

theorem exec_coreInstr (clr : Bool) (s : State) : exec (coreInstr clr s) s = toOut (coreOperation clr s) := by
  cases clr with
  | true => rfl
  | false =>
    rw [coreInstr, coreOperation]
    cases s.phase with
    | pump => cases s.rxq.empty <;> rfl
    | parse => cases s.stqEmpty <;> rfl
    | arm => rfl

/-- The vector does not look at the pulses, so they may be cleared before or after it is formed. -/
theorem coreInstr_clearPulses (clr : Bool) (s : State) : coreInstr clr (clearPulses s) = coreInstr clr s := rfl

theorem exec_coreEdge (clr l l' : Bool) (s : State) :
    exec (.coreEdge clr l l') s = mapNext (coreSync l l') (exec (coreInstr clr s) (clearPulses s)) := by
  rw [← coreInstr_clearPulses, exec_coreInstr]
  change toOut (coreEdge clr l l' s) = _
  rw [coreEdge]
  cases coreOperation clr (clearPulses s) <;> rfl

theorem stepWith_core_eq (clr l l' : Bool) (s : State) :
    stepWith (.core clr l l') s = exec (.coreEdge clr l l') s := by
  rw [stepWith_of_fetch (fetch_core_eq clr l l' s), exec_coreEdge]
  rfl

theorem stepWith_rx_eq (v : Bool) (d : Byte) (l : Bool) (s : State) :
    stepWith (.rx v d l) s = .next (rxEdge v d l s) := by
  cases v with
  | false => rw [stepWith_of_fetch (fetch_rx_not_valid d l s)]; rfl
  | true =>
    rw [stepWith_of_fetch (fetch_rx_valid d l s), rxEdge]
    cases s.rxq.full s.cfg.rxAw <;> rfl

theorem stepWith_tx_eq (r l l' : Bool) (s : State) : stepWith (.tx r l l') s = .next (txEdge r l l' s) := by
  cases r with
  | false => rw [stepWith_of_fetch (fetch_tx_not_ready l l' s)]; rfl
  | true =>
    rw [stepWith_of_fetch (fetch_tx_ready l l' s), txEdge]
    cases s.tr.txIe with
    | false => rfl
    | true => cases s.txq.empty <;> rfl

theorem stepWith_rst_eq (s : State) : stepWith .rst s = .next (resetStep s) := rfl

/-- Settles O40: each domain's vector decodes to the operation that its step function selects. -/
theorem stepIsTheStepFunctionOfItsDomain : Obligations.StepIsTheStepFunctionOfItsDomain := by
  intro e s
  cases e with
  | rx v d l => exact stepWith_rx_eq v d l s
  | core clr l l' => exact stepWith_core_eq clr l l' s
  | tx r l l' => exact stepWith_tx_eq r l l' s
  | rst => exact stepWith_rst_eq s

/-- Settles O39: the choice, wherever it comes from, is fetched in the state it leaves. -/
theorem stepRunsTheDecodedInstruction : Obligations.StepRunsTheDecodedInstruction := by
  intro s e rest i tail
  constructor
  · rintro hpend u rfl hdec
    have htake : takeEnv s = (e, { s with pending := rest }) := by rw [takeEnv, hpend]
    rw [step, htake]
    exact stepWith_of_fetch hdec
  · rintro hpend rfl u rfl hdec
    have htake : takeEnv s = (Config.environment s.envTick, { s with envTick := s.envTick + 1 }) := by
      rw [takeEnv, hpend]
    rw [step, htake]
    exact stepWith_of_fetch hdec

/-! ### The core edge completes (spec/45_orchestrator.md R186 to R189) -/

theorem stqEnq_completes (b : Byte) {s : State} (h : s.stq.inp < s.cfg.stDepth) : ∃ r, stqEnq b s = .ok r := by
  by_cases hf : s.stqFull = true
  · exact ⟨_, by rw [stqEnq, if_pos hf]⟩
  · exact ⟨_, by rw [stqEnq, if_neg hf, if_pos h]⟩

theorem stqDeq_of_empty {s : State} (h : s.stq.cnt = 0) : stqDeq s = .ok (none, s) := by
  simp [stqDeq, State.stqEmpty, h]

theorem stqDeq_of_staged {s : State} (hc : s.stq.cnt ≠ 0) (ho : s.stq.out < s.cfg.stDepth) :
    stqDeq s = .ok (some s.stagedByte,
      s.setStq { s.stq with out := nextCursor s.cfg.stDepth s.stq.out, cnt := s.stq.cnt - 1 }) := by
  simp [stqDeq, State.stqEmpty, hc, ho, State.stagedByte]

theorem pumpMove_completes {s : State} (h : s.stq.inp < s.cfg.stDepth) : ∃ t, pumpMove s = .ok t := by
  rw [pumpMove]
  rcases aqPop_cases .rxq s with ⟨-, hq⟩ | ⟨-, hq⟩ <;> rw [hq]
  · exact ⟨_, rfl⟩
  · obtain ⟨r, hr⟩ := stqEnq_completes ((s.fifo .rxq).front (fifoArray .rxq) (s.aw .rxq))
      (s := s.setFifo .rxq ((s.fifo .rxq).advance (s.aw .rxq))) h
    dsimp only
    rw [hr]
    exact ⟨_, rfl⟩

/-- `CORE.PARSE` with a byte staged is `ParserStep` on it, from the state without it. -/
theorem coreParse_of_parserStep {s t : State} (hc : s.stq.cnt ≠ 0) (ho : s.stq.out < s.cfg.stDepth)
    (h : parserStep s.stagedByte
      (s.setStq { s.stq with out := nextCursor s.cfg.stDepth s.stq.out, cnt := s.stq.cnt - 1 }) = .ok t) :
    coreParse s = .ok (t.setPhase .arm) := by
  rw [coreParse, stqDeq_of_staged hc ho]
  dsimp only
  rw [h]

theorem coreParse_completes {s : State} (ho : s.stq.out < s.cfg.stDepth)
    (hroom : s.pstate = .data → s.page.len < s.cfg.pageSize) : ∃ t, coreParse s = .ok t := by
  by_cases hc : s.stq.cnt = 0
  · exact ⟨_, by rw [coreParse, stqDeq_of_empty hc]⟩
  · obtain ⟨t, ht⟩ := parserStep_completes s.stagedByte
      (s := s.setStq { s.stq with out := nextCursor s.cfg.stDepth s.stq.out, cnt := s.stq.cnt - 1 }) hroom
    exact ⟨_, coreParse_of_parserStep hc ho ht⟩

/-- Settles O30: the byte at the removal cursor is taken out first, and then the parser runs on it. -/
theorem parseConsumesOneStagedByte : Obligations.ParseConsumesOneStagedByte := by
  intro s hc ho hroom
  obtain ⟨t, ht⟩ := parserStep_completes s.stagedByte
    (s := s.setStq { s.stq with out := nextCursor s.cfg.stDepth s.stq.out, cnt := s.stq.cnt - 1 }) hroom
  exact ⟨t, congrArg toOut ht, congrArg toOut (coreParse_of_parserStep hc ho ht)⟩

theorem coreOperation_completes (clr : Bool) {s : State} (hi : s.stq.inp < s.cfg.stDepth)
    (ho : s.stq.out < s.cfg.stDepth) (hroom : s.pstate = .data → s.page.len < s.cfg.pageSize) :
    ∃ t, coreOperation clr s = .ok t := by
  rw [coreOperation]
  split
  · exact ⟨_, rfl⟩
  · split
    · split
      · exact ⟨_, rfl⟩
      · exact pumpMove_completes hi
    · split
      · exact ⟨_, rfl⟩
      · exact coreParse_completes ho hroom
    · exact ⟨_, rfl⟩

theorem coreInstr_mem (clr : Bool) (s : State) :
    coreInstr clr s = .coreClr ∨ coreInstr clr s = .corePumpMove ∨ coreInstr clr s = .corePumpDone ∨
      coreInstr clr s = .coreParse ∨ coreInstr clr s = .coreParseNop ∨ coreInstr clr s = .coreArm :=
  fetch_core_cases (fetch_core_eq clr false false s)

/-- A core operation writes nothing that the edge's synchronisers read, so they may come after it (log 17). -/
theorem core_operation_keeps_samples {i : Instr} {s u : State}
    (hi : i = .coreClr ∨ i = .corePumpMove ∨ i = .corePumpDone ∨ i = .coreParse ∨ i = .coreParseNop ∨ i = .coreArm)
    (hu : exec i s = .next u) : u.rxq.writeView = s.rxq.writeView ∧ u.txq.readView = s.txq.readView := by
  obtain ⟨hr, hq, -⟩ := core_operation_effect hi hu
  constructor
  · rcases hr with hr | hr <;> rw [hr]
    rfl
  · rcases hq with hq | ⟨d, hq⟩ <;> rw [hq]
    rfl

/-- Settles O32: the operation of the vector, run with the pulses cleared, and then the two synchronisers, which see
what they would have seen before it. -/
theorem coreEdgeRunsTheSelectedOperation : Obligations.CoreEdgeRunsTheSelectedOperation := by
  intro s clr lateRx lateTx hi ho hroom
  obtain ⟨t, ht⟩ := coreOperation_completes clr (s := clearPulses s) hi ho hroom
  have hexec : exec (coreInstr clr s) (clearPulses s) = .next t := by
    rw [← coreInstr_clearPulses, exec_coreInstr, ht]; rfl
  refine ⟨coreInstr clr s, t, decodeCoreVector_coreVector clr s, hexec, ?_⟩
  obtain ⟨hwrite, hread⟩ := core_operation_keeps_samples (coreInstr_mem clr s) hexec
  obtain ⟨hw, hwp, hwf, hw1, -⟩ : t.rxq.wgray = s.rxq.wgray ∧ t.rxq.wgrayPrev = s.rxq.wgrayPrev ∧
      t.rxq.wgrayFresh = s.rxq.wgrayFresh ∧ t.rxq.wq1 = s.rxq.wq1 ∧ t.rxq.wq2 = s.rxq.wq2 := by
    simpa [AsyncFifo.writeView, clearPulses] using hwrite
  obtain ⟨hr, hrp, hrf, hr1, -⟩ : t.txq.rgray = s.txq.rgray ∧ t.txq.rgrayPrev = s.txq.rgrayPrev ∧
      t.txq.rgrayFresh = s.txq.rgrayFresh ∧ t.txq.rq1 = s.txq.rq1 ∧ t.txq.rq2 = s.txq.rq2 := by
    simpa [AsyncFifo.readView, clearPulses] using hread
  rw [exec_coreEdge, hexec, ← sampled_eq_ite, ← sampled_eq_ite, ← hw, ← hwp, ← hwf, ← hw1, ← hr, ← hrp, ← hrf, ← hr1]
  rfl

end Sys2Proof.Machine

/-! PROOFS. The asynchronous FIFO (spec/40_bytequeue.md section 3): the arithmetic of its pointers and of their Gray codes, what the two flags mean, and how its operations move the pointers under the invariant. The invariant's distances are measured round the pointer circle: a push or a pop lengthens or shortens one of them, and a synchroniser update cuts one in two at the sampled value. -/

namespace Sys2Proof.Machine

/-! ### The Gray code of neighbours (spec/40_bytequeue.md R98) -/

theorem bin2gray_eq_half (b : Nat) : bin2gray b = 2 * bin2gray (b / 2) + (b + b / 2) % 2 := by
  have h := bin2gray_eq_shift b
  rwa [bin2gray_shiftRight, Nat.shiftRight_eq_div_pow] at h

theorem flip_lowest {c : Nat} (x : Nat) (hc : c < 2) : 2 * x + (1 - c) = (2 * x + c) ^^^ 2 ^ 0 := by
  rcases (by omega : c = 0 ∨ c = 1) with rfl | rfl
  · exact (Nat.xor_one_of_even (even_two_mul x)).symm
  · exact (Nat.xor_one_of_odd ⟨x, rfl⟩).symm

/-- Flipping bit `k` of the upper part flips bit `k + 1` of the whole. -/
theorem flip_upper {c : Nat} (x k : Nat) (hc : c < 2) : 2 * (x ^^^ 2 ^ k) + c = (2 * x + c) ^^^ 2 ^ (k + 1) := by
  have hhalf : ((2 * x + c) ^^^ 2 ^ (k + 1)) / 2 = x ^^^ 2 ^ k := by
    rw [Nat.xor_div_two, Nat.pow_succ]
    congr 1 <;> omega
  have hlow : ((2 * x + c) ^^^ 2 ^ (k + 1)) % 2 = c := by
    rw [Nat.xor_mod_two_eq, Nat.pow_succ]
    omega
  omega

/-- The lowest bit alone changes after an even pointer; after an odd one the step carries into the upper part, where
the two are neighbours again. -/
theorem bin2gray_succ (n b : Nat) (hb : b < 2 ^ (n + 1)) :
    ∃ k < n + 1, bin2gray ((b + 1) % 2 ^ (n + 1)) = bin2gray b ^^^ 2 ^ k := by
  induction n generalizing b with
  | zero =>
    have hcases : b = 0 ∨ b = 1 := by omega
    rcases hcases with rfl | rfl <;> exact ⟨0, by decide, by decide⟩
  | succ n ih =>
    have hpow : 2 ^ (n + 1 + 1) = 2 * 2 ^ (n + 1) := Nat.pow_succ' ..
    rcases Nat.mod_two_eq_zero_or_one b with heven | hodd
    · refine ⟨0, by omega, ?_⟩
      rw [Nat.mod_eq_of_lt (by omega), bin2gray_eq_half (b + 1), bin2gray_eq_half b, show (b + 1) / 2 = b / 2 by omega]
      rw [show (b + 1 + b / 2) % 2 = 1 - (b + b / 2) % 2 by omega]
      exact flip_lowest _ (Nat.mod_lt _ (by decide))
    · obtain ⟨k, hk, hupper⟩ := ih (b / 2) (by omega)
      refine ⟨k + 1, by omega, ?_⟩
      have hhalf : (b + 1) % 2 ^ (n + 1 + 1) / 2 = (b / 2 + 1) % 2 ^ (n + 1) := by
        rw [hpow, Nat.mod_mul_right_div_self]
        congr 1
        omega
      have hlow : ((b + 1) % 2 ^ (n + 1 + 1) + (b / 2 + 1) % 2 ^ (n + 1)) % 2 = (b + b / 2) % 2 := by
        have h1 : (b + 1) % 2 ^ (n + 1 + 1) % 2 = (b + 1) % 2 := Nat.mod_mod_of_dvd _ (by omega)
        have h2 : (b / 2 + 1) % 2 ^ (n + 1) % 2 = (b / 2 + 1) % 2 :=
          Nat.mod_mod_of_dvd _ ⟨2 ^ n, Nat.pow_succ' ..⟩
        omega
      rw [bin2gray_eq_half, hhalf, hlow, hupper, flip_upper _ _ (Nat.mod_lt _ (by decide)), ← bin2gray_eq_half]

/-- Settles O45: a pointer step flips one bit of the Gray code, the wrap among them. -/
theorem grayNeighboursDifferInOneBit : Obligations.GrayNeighboursDifferInOneBit := by
  intro n b hn hb
  obtain ⟨m, rfl⟩ := Nat.exists_eq_add_of_le' hn
  exact bin2gray_succ m b hb

/-! ### Full and empty views (spec/40_bytequeue.md R90, R91) -/

theorem bin2gray_xor (a b : Nat) : bin2gray (a ^^^ b) = bin2gray a ^^^ bin2gray b := by
  simp only [bin2gray, Nat.shiftRight_xor_distrib]
  ac_rfl

/-- The mask of R90 is the Gray code of half a turn. -/
theorem fullMask_eq {aw : Nat} (h : 1 ≤ aw) : fullMask aw = bin2gray (2 ^ aw) := by
  obtain ⟨k, rfl⟩ := Nat.exists_eq_add_of_le' h
  induction k with
  | zero => rfl
  | succ k ih =>
    rw [bin2gray_eq_half, show 2 ^ (k + 1 + 1) / 2 = 2 ^ (k + 1) by omega, ← ih (by omega)]
    simp only [fullMask, Nat.add_sub_cancel, Nat.shiftLeft_eq]
    omega

/-- Half a turn flips the top bit of a pointer. -/
theorem xor_half_turn {aw r : Nat} (hr : r < 2 ^ (aw + 1)) :
    r ^^^ 2 ^ aw = if r < 2 ^ aw then r + 2 ^ aw else r - 2 ^ aw := by
  have hpos := Nat.two_pow_pos aw
  have hlow : (r ^^^ 2 ^ aw) % 2 ^ aw = r % 2 ^ aw := by
    rw [Nat.xor_mod_two_pow, Nat.mod_self, Nat.xor_zero]
  have htop : (r ^^^ 2 ^ aw) / 2 ^ aw = r / 2 ^ aw ^^^ 1 := by
    rw [Nat.xor_div_two_pow, Nat.div_self hpos]
  have hsum := Nat.div_add_mod (r ^^^ 2 ^ aw) (2 ^ aw)
  rw [hlow, htop] at hsum
  split
  · next h => rw [Nat.div_eq_of_lt h, Nat.mod_eq_of_lt h] at hsum; simp at hsum; omega
  · next h =>
    have hdiv : r / 2 ^ aw = 1 := by
      rw [Nat.div_eq_iff hpos]; omega
    rw [hdiv, Nat.mod_eq_sub_mod (by omega), Nat.mod_eq_of_lt (by omega)] at hsum
    simp at hsum
    omega

theorem pointerDiff_eq_half_turn {aw w r : Nat} (hw : w < 2 ^ (aw + 1)) (hr : r < 2 ^ (aw + 1)) :
    pointerDiff (aw + 1) w r = 2 ^ aw ↔ w = r ^^^ 2 ^ aw := by
  rw [pointerDiff_eq hw hr, xor_half_turn hr]
  split <;> split <;> omega

theorem AsyncFifo.full_iff {aw : Nat} {q : AsyncFifo} (haw : 1 ≤ aw) (hq : q.Coded aw) :
    q.full aw = true ↔ q.wrCount aw = 2 ^ aw := by
  obtain ⟨hw, -, -, hr2, -, -, hwg, -⟩ := hq
  have hview : q.rq2 ^^^ fullMask aw = bin2gray (gray2bin (aw + 1) q.rq2 ^^^ 2 ^ aw) := by
    rw [bin2gray_xor, bin2gray_gray2bin _ _ hr2, fullMask_eq haw]
  have hhalf : gray2bin (aw + 1) q.rq2 ^^^ 2 ^ aw < 2 ^ (aw + 1) :=
    Nat.xor_lt_two_pow (gray2bin_lt _ _) (Nat.pow_lt_pow_right (by decide) (by omega))
  rw [AsyncFifo.full, beq_iff_eq, hwg, hview, AsyncFifo.wrCount, pointerDiff_eq_half_turn hw (gray2bin_lt _ _)]
  exact ⟨bin2gray_inj hw hhalf, congrArg bin2gray⟩

theorem AsyncFifo.empty_iff {aw : Nat} {q : AsyncFifo} (hq : q.Coded aw) : q.empty = true ↔ q.rdCount aw = 0 := by
  obtain ⟨-, hr, -, -, -, hw2, -, hrg⟩ := hq
  rw [AsyncFifo.empty, beq_iff_eq, hrg, AsyncFifo.rdCount, pointerDiff_eq_zero (gray2bin_lt _ _) hr]
  exact ⟨fun h => by rw [← h, gray2bin_bin2gray _ _ hr], fun h => by rw [← h, bin2gray_gray2bin _ _ hw2]⟩

/-- Settles O46: the two Gray comparisons, each as a statement about binary pointers. -/
theorem flagsMeanFullAndEmptyViews : Obligations.FlagsMeanFullAndEmptyViews :=
  fun _ _ haw hq => ⟨AsyncFifo.full_iff haw hq, AsyncFifo.empty_iff hq⟩

/-! ### The counts under the invariant (spec/20_memory.md R53, spec/40_bytequeue.md R97) -/

section
variable {aw : Nat} {q : AsyncFifo}

theorem AsyncFifo.Inv.rdCount_le (h : q.Inv aw) : q.rdCount aw ≤ q.trueCount aw := by
  have := h.readViews
  omega

theorem AsyncFifo.Inv.trueCount_le_wrCount (h : q.Inv aw) : q.trueCount aw ≤ q.wrCount aw := by
  have := h.writeViews.1
  omega

theorem AsyncFifo.Inv.trueCount_le (h : q.Inv aw) : q.trueCount aw ≤ 2 ^ aw :=
  h.trueCount_le_wrCount.trans h.writeViews.2

theorem AsyncFifo.Inv.wrCount_lt (h : q.Inv aw) (haw : 1 ≤ aw) (hf : q.full aw = false) : q.wrCount aw < 2 ^ aw := by
  refine Nat.lt_of_le_of_ne h.writeViews.2 fun heq => ?_
  exact absurd ((AsyncFifo.full_iff haw h.coded).mpr heq) (by simp [hf])

theorem AsyncFifo.Inv.rdCount_pos (h : q.Inv aw) (he : q.empty = false) : 0 < q.rdCount aw := by
  refine Nat.pos_of_ne_zero fun heq => ?_
  exact absurd ((AsyncFifo.empty_iff h.coded).mpr heq) (by simp [he])

end

/-- Settles O47: the views lag on the safe side, and each flag compares with its own view. -/
theorem flagsErrOnTheSafeSide : Obligations.FlagsErrOnTheSafeSide := by
  intro aw q haw h
  refine ⟨h.rdCount_le, h.trueCount_le_wrCount, h.trueCount_le, fun hf => ?_, fun he => ?_⟩
  · exact h.trueCount_le_wrCount.trans_lt (h.wrCount_lt haw hf)
  · exact (h.rdCount_pos he).trans_le h.rdCount_le

end Sys2Proof.Machine

/-! PROOFS. The operations of the asynchronous FIFO under its invariant (spec/20_memory.md R51 to R53, spec/40_bytequeue.md R93 to R97): a push lengthens the distance from the read pointer to the write pointer by one, a pop shortens it, a synchroniser update moves the views to a value on the way to the pointer they follow. Then the pending bytes, which a push appends to and a pop takes the head of. -/

namespace Sys2Proof.Machine

/-! ### Distances round the pointer circle (spec/40_bytequeue.md R92) -/

theorem succ_mod_of_lt {m a : Nat} (h : a < m) : (a + 1) % m = if a + 1 = m then 0 else a + 1 := by
  split
  · next heq => rw [heq, Nat.mod_self]
  · exact Nat.mod_eq_of_lt (by omega)

section
variable {pw a b c : Nat} (ha : a < 2 ^ pw) (hb : b < 2 ^ pw)
include ha hb

/-- Two distances that together make less than a turn add up. -/
theorem pointerDiff_add (hc : c < 2 ^ pw) (h : pointerDiff pw a b + pointerDiff pw b c < 2 ^ pw) :
    pointerDiff pw a c = pointerDiff pw a b + pointerDiff pw b c := by
  rw [pointerDiff_eq ha hb, pointerDiff_eq hb hc] at *
  rw [pointerDiff_eq ha hc]
  split at h <;> split at h <;> split <;> omega

/-- The pointer in front moves on. -/
theorem pointerDiff_succ_left (h : pointerDiff pw a b + 1 < 2 ^ pw) :
    pointerDiff pw ((a + 1) % 2 ^ pw) b = pointerDiff pw a b + 1 := by
  rw [pointerDiff_eq (Nat.mod_lt _ (Nat.two_pow_pos pw)) hb, succ_mod_of_lt ha]
  rw [pointerDiff_eq ha hb] at *
  split at h <;> split <;> split <;> omega

/-- The pointer behind moves on towards the one in front. -/
theorem pointerDiff_succ_right (h : pointerDiff pw a b ≠ 0) :
    pointerDiff pw a ((b + 1) % 2 ^ pw) = pointerDiff pw a b - 1 := by
  rw [pointerDiff_eq ha (Nat.mod_lt _ (Nat.two_pow_pos pw)), succ_mod_of_lt hb]
  rw [pointerDiff_eq ha hb] at *
  split at h <;> split <;> split <;> omega

/-- The value before a pointer's last increment is one place behind it, on the way to whatever lies further back. -/
theorem pointerDiff_pred (hne : a ≠ b) :
    pointerDiff pw a (pointerDiff pw a 1) + pointerDiff pw (pointerDiff pw a 1) b = pointerDiff pw a b := by
  have hone : 1 < 2 ^ pw := by
    refine Nat.lt_of_not_le fun h => hne ?_
    omega
  rw [pointerDiff_eq ha (pointerDiff_lt _ _ _), pointerDiff_eq (pointerDiff_lt _ _ _) hb, pointerDiff_eq ha hone,
    pointerDiff_eq ha hb]
  split <;> split <;> split <;> split <;> omega

end

/-- The value before an increment is one less. -/
theorem pointerDiff_succ_one {pw a : Nat} (hpw : 1 ≤ pw) (ha : a < 2 ^ pw) :
    pointerDiff pw ((a + 1) % 2 ^ pw) 1 = a := by
  have hone : 1 < 2 ^ pw := Nat.one_lt_two_pow (by omega)
  rw [pointerDiff_eq (Nat.mod_lt _ (Nat.two_pow_pos pw)) hone, succ_mod_of_lt ha]
  split <;> split <;> omega

/-- A sample of a pointer lies between the pointer and the first stage that takes it (spec/40_bytequeue.md R96). -/
theorem sampled_between {pw b g prev : Nat} {fresh : Bool} (late : Bool) (hb : b < 2 ^ pw)
    (hghost : fresh = true → prev = bin2gray (pointerDiff pw b 1) ∧ b ≠ gray2bin pw g) :
    sampled (bin2gray b) prev fresh late < 2 ^ pw ∧
    pointerDiff pw b (gray2bin pw (sampled (bin2gray b) prev fresh late)) +
      pointerDiff pw (gray2bin pw (sampled (bin2gray b) prev fresh late)) (gray2bin pw g) =
    pointerDiff pw b (gray2bin pw g) := by
  rw [sampled_eq_ite]
  split
  · next h =>
    obtain ⟨rfl, hne⟩ := hghost h.1
    have hlt := pointerDiff_lt pw b 1
    rw [gray2bin_bin2gray _ _ hlt]
    exact ⟨bin2gray_lt hlt, pointerDiff_pred hb (gray2bin_lt _ _) hne⟩
  · rw [gray2bin_bin2gray _ _ hb, pointerDiff_self, Nat.zero_add]
    exact ⟨bin2gray_lt hb, rfl⟩

/-! ### How far the synchroniser stages lag -/

/-- How far the write side's first stage lags the read pointer. -/
def AsyncFifo.readLag (aw : Nat) (q : AsyncFifo) : Nat := pointerDiff (aw + 1) q.rbin (gray2bin (aw + 1) q.rq1)

/-- How far the write side's second stage lags its first. -/
def AsyncFifo.readStep (aw : Nat) (q : AsyncFifo) : Nat :=
  pointerDiff (aw + 1) (gray2bin (aw + 1) q.rq1) (gray2bin (aw + 1) q.rq2)

/-- How far the read side's first stage lags the write pointer. -/
def AsyncFifo.writeLag (aw : Nat) (q : AsyncFifo) : Nat := pointerDiff (aw + 1) q.wbin (gray2bin (aw + 1) q.wq1)

/-- How far the read side's second stage lags its first. -/
def AsyncFifo.writeStep (aw : Nat) (q : AsyncFifo) : Nat :=
  pointerDiff (aw + 1) (gray2bin (aw + 1) q.wq1) (gray2bin (aw + 1) q.wq2)

section
variable {aw : Nat} {q : AsyncFifo}

theorem AsyncFifo.writeViews_iff :
    q.WriteViews aw ↔ q.wrCount aw = q.trueCount aw + q.readLag aw + q.readStep aw ∧ q.wrCount aw ≤ 2 ^ aw := Iff.rfl

theorem AsyncFifo.readViews_iff :
    q.ReadViews aw ↔ q.trueCount aw = q.rdCount aw + q.writeLag aw + q.writeStep aw := Iff.rfl

theorem AsyncFifo.readLag_ne_zero (h : q.rbin < 2 ^ (aw + 1)) (hlag : q.readLag aw ≠ 0) :
    q.rbin ≠ gray2bin (aw + 1) q.rq1 := fun heq => hlag ((pointerDiff_eq_zero h (gray2bin_lt _ _)).mpr heq)

theorem AsyncFifo.writeLag_ne_zero (h : q.wbin < 2 ^ (aw + 1)) (hlag : q.writeLag aw ≠ 0) :
    q.wbin ≠ gray2bin (aw + 1) q.wq1 := fun heq => hlag ((pointerDiff_eq_zero h (gray2bin_lt _ _)).mpr heq)

end

/-! ### The operations keep the invariant of the FIFO -/

section
variable {aw : Nat} {q : AsyncFifo}

theorem AsyncFifo.trueCount_accept (h : q.Coded aw) (hroom : q.trueCount aw < 2 ^ aw) (b : Byte) :
    (q.accept aw b).trueCount aw = q.trueCount aw + 1 := by
  obtain ⟨hw, hr, -⟩ := h
  exact pointerDiff_succ_left hw hr (show q.trueCount aw + 1 < 2 ^ (aw + 1) by omega)

theorem AsyncFifo.wrCount_accept (h : q.Coded aw) (hroom : q.wrCount aw < 2 ^ aw) (b : Byte) :
    (q.accept aw b).wrCount aw = q.wrCount aw + 1 := by
  obtain ⟨hw, -⟩ := h
  exact pointerDiff_succ_left hw (gray2bin_lt _ _) (show q.wrCount aw + 1 < 2 ^ (aw + 1) by omega)

theorem AsyncFifo.writeLag_accept (h : q.Coded aw) (hroom : q.writeLag aw < 2 ^ aw) (b : Byte) :
    (q.accept aw b).writeLag aw = q.writeLag aw + 1 := by
  obtain ⟨hw, -⟩ := h
  exact pointerDiff_succ_left hw (gray2bin_lt _ _) (show q.writeLag aw + 1 < 2 ^ (aw + 1) by omega)

theorem AsyncFifo.trueCount_advance (h : q.Coded aw) (hbyte : q.trueCount aw ≠ 0) :
    (q.advance aw).trueCount aw = q.trueCount aw - 1 := by
  obtain ⟨hw, hr, -⟩ := h
  exact pointerDiff_succ_right hw hr hbyte

theorem AsyncFifo.rdCount_advance (h : q.Coded aw) (hbyte : q.rdCount aw ≠ 0) :
    (q.advance aw).rdCount aw = q.rdCount aw - 1 := by
  obtain ⟨-, hr, -⟩ := h
  exact pointerDiff_succ_right (gray2bin_lt _ _) hr hbyte

theorem AsyncFifo.readLag_advance (h : q.Coded aw) (hroom : q.readLag aw < 2 ^ aw) :
    (q.advance aw).readLag aw = q.readLag aw + 1 := by
  obtain ⟨-, hr, -⟩ := h
  exact pointerDiff_succ_left hr (gray2bin_lt _ _) (show q.readLag aw + 1 < 2 ^ (aw + 1) by omega)

/-- A push that finds room lengthens the true distance and each distance that starts at the write pointer. -/
theorem AsyncFifo.Inv.accept (h : q.Inv aw) (haw : 1 ≤ aw) (hf : q.full aw = false) (b : Byte) :
    (q.accept aw b).Inv aw := by
  have hroom := h.wrCount_lt haw hf
  obtain ⟨hwr, -⟩ := AsyncFifo.writeViews_iff.mp h.writeViews
  have hrd := AsyncFifo.readViews_iff.mp h.readViews
  obtain ⟨hw, hr, hr1, hr2, hw1, hw2, hwg, hrg⟩ := h.coded
  have hw' : (q.accept aw b).wbin < 2 ^ (aw + 1) := Nat.mod_lt _ (Nat.two_pow_pos _)
  have htrue := AsyncFifo.trueCount_accept h.coded (by omega) b
  have hcount := AsyncFifo.wrCount_accept h.coded hroom b
  have hlag := AsyncFifo.writeLag_accept h.coded (by omega) b
  have hprev : q.wgray = bin2gray (pointerDiff (aw + 1) (q.accept aw b).wbin 1) := by
    rw [hwg]; exact congrArg bin2gray (pointerDiff_succ_one (by omega) hw).symm
  refine ⟨Memory.write_wf (Nat.mod_lt _ (Nat.two_pow_pos aw)) h.memory, ⟨hw', hr, hr1, hr2, hw1, hw2, rfl, hrg⟩,
    AsyncFifo.writeViews_iff.mpr ⟨?_, by omega⟩, AsyncFifo.readViews_iff.mpr ?_, h.ghosts.1,
    fun _ => ⟨hprev, AsyncFifo.writeLag_ne_zero hw' (by omega)⟩⟩
  · change _ = _ + q.readLag aw + q.readStep aw
    omega
  · change _ = q.rdCount aw + _ + q.writeStep aw
    omega

/-- A pop that finds a byte shortens the true distance and each that ends at the read pointer. -/
theorem AsyncFifo.Inv.advance (h : q.Inv aw) (he : q.empty = false) : (q.advance aw).Inv aw := by
  have hbyte := h.rdCount_pos he
  obtain ⟨hwr, hle⟩ := AsyncFifo.writeViews_iff.mp h.writeViews
  have hrd := AsyncFifo.readViews_iff.mp h.readViews
  obtain ⟨hw, hr, hr1, hr2, hw1, hw2, hwg, hrg⟩ := h.coded
  have hr' : (q.advance aw).rbin < 2 ^ (aw + 1) := Nat.mod_lt _ (Nat.two_pow_pos _)
  have htrue := AsyncFifo.trueCount_advance h.coded (by omega)
  have hcount := AsyncFifo.rdCount_advance h.coded (by omega)
  have hlag := AsyncFifo.readLag_advance h.coded (by omega)
  have hprev : q.rgray = bin2gray (pointerDiff (aw + 1) (q.advance aw).rbin 1) := by
    rw [hrg]; exact congrArg bin2gray (pointerDiff_succ_one (by omega) hr).symm
  refine ⟨h.memory, ⟨hw, hr', hr1, hr2, hw1, hw2, hwg, rfl⟩, AsyncFifo.writeViews_iff.mpr ⟨?_, hle⟩,
    AsyncFifo.readViews_iff.mpr ?_, fun _ => ⟨hprev, AsyncFifo.readLag_ne_zero hr' (by omega)⟩, h.ghosts.2⟩
  · change q.wrCount aw = _ + _ + q.readStep aw
    omega
  · change _ = _ + q.writeLag aw + q.writeStep aw
    omega

/-- The write side's stages shift: what the second one held drops out, and the sample splits the lag of the first. -/
theorem AsyncFifo.Inv.syncWrite (h : q.Inv aw) (late : Bool) : (q.syncWrite late).Inv aw := by
  obtain ⟨hwr, hle⟩ := AsyncFifo.writeViews_iff.mp h.writeViews
  obtain ⟨hw, hr, hr1, hr2, hw1, hw2, hwg, hrg⟩ := h.coded
  obtain ⟨hs, hsplit⟩ := sampled_between late hr h.ghosts.1
  rw [← hrg] at hs hsplit
  have hsplit : (q.syncWrite late).readLag aw + (q.syncWrite late).readStep aw = q.readLag aw := hsplit
  have hcount : (q.syncWrite late).wrCount aw = q.trueCount aw + q.readLag aw :=
    pointerDiff_add hw hr (gray2bin_lt _ _) (show q.trueCount aw + q.readLag aw < 2 ^ (aw + 1) by omega)
  refine ⟨h.memory, ⟨hw, hr, hs, hr1, hw1, hw2, hwg, hrg⟩, AsyncFifo.writeViews_iff.mpr ⟨?_, by omega⟩, h.readViews,
    fun hfresh => absurd hfresh Bool.false_ne_true, h.ghosts.2⟩
  change _ = q.trueCount aw + _ + _
  omega

/-- The read side's stages shift in the same way. -/
theorem AsyncFifo.Inv.syncRead (h : q.Inv aw) (late : Bool) : (q.syncRead late).Inv aw := by
  have hle := h.trueCount_le
  have hrd := AsyncFifo.readViews_iff.mp h.readViews
  obtain ⟨hw, hr, hr1, hr2, hw1, hw2, hwg, hrg⟩ := h.coded
  obtain ⟨hs, hsplit⟩ := sampled_between late hw h.ghosts.2
  rw [← hwg] at hs hsplit
  have hsplit : (q.syncRead late).writeLag aw + (q.syncRead late).writeStep aw = q.writeLag aw := hsplit
  have hcount : (q.syncRead late).rdCount aw = q.writeStep aw + q.rdCount aw :=
    pointerDiff_add (gray2bin_lt _ _) (gray2bin_lt _ _) hr
      (show q.writeStep aw + q.rdCount aw < 2 ^ (aw + 1) by omega)
  refine ⟨h.memory, ⟨hw, hr, hr1, hr2, hs, hw1, hwg, hrg⟩, h.writeViews, AsyncFifo.readViews_iff.mpr ?_, h.ghosts.1,
    fun hfresh => absurd hfresh Bool.false_ne_true⟩
  change q.trueCount aw = _
  omega

end

theorem gray2bin_zero (n : Nat) : gray2bin n 0 = 0 := by
  have h := gray2bin_bin2gray n 0 (Nat.two_pow_pos n)
  rwa [show bin2gray 0 = 0 from rfl] at h

theorem AsyncFifo.cleared_inv {aw : Nat} {m : Memory} (h : m.wf (2 ^ aw) = true) :
    (AsyncFifo.cleared m).Inv aw := by
  have hpos := Nat.two_pow_pos (aw + 1)
  have hzero := pointerDiff_self (aw + 1) 0
  have hgray : 0 = bin2gray 0 := by decide
  refine ⟨h, ⟨hpos, hpos, hpos, hpos, hpos, hpos, hgray, hgray⟩, ?_, ?_, ?_⟩ <;>
    simp [AsyncFifo.WriteViews, AsyncFifo.ReadViews, AsyncFifo.Ghosts, AsyncFifo.wrCount, AsyncFifo.rdCount,
      AsyncFifo.trueCount, AsyncFifo.cleared, gray2bin_zero, hzero]

/-! ### The pending bytes (spec/20_memory.md R51, R52) -/

section
variable {aw : Nat} {q : AsyncFifo} (id : ArrayId)

/-- The write pointer is `true_count` places ahead of the read pointer. -/
theorem AsyncFifo.wbin_slot (h : q.Coded aw) : (q.rbin + q.trueCount aw) % 2 ^ aw = q.wbin % 2 ^ aw := by
  obtain ⟨hw, hr, -⟩ := h
  have hturn : 2 ^ (aw + 1) = 2 * 2 ^ aw := Nat.pow_succ' ..
  rw [AsyncFifo.trueCount, pointerDiff_eq hw hr]
  split
  · congr 1; omega
  · rw [show q.rbin + (q.wbin + 2 ^ (aw + 1) - q.rbin) = q.wbin + 2 ^ aw * 2 by omega, Nat.add_mul_mod_self_left]

/-- With room in the queue no pending byte stands in the slot of the next push. -/
theorem AsyncFifo.pending_slot_ne (h : q.Coded aw) (hroom : q.trueCount aw < 2 ^ aw) {k : Nat}
    (hk : k < q.trueCount aw) : (q.rbin + k) % 2 ^ aw ≠ q.wbin % 2 ^ aw := by
  rw [← AsyncFifo.wbin_slot h]
  intro heq
  have hmod : k ≡ q.trueCount aw [MOD 2 ^ aw] := Nat.ModEq.add_left_cancel' q.rbin heq
  rw [Nat.ModEq, Nat.mod_eq_of_lt (hk.trans hroom), Nat.mod_eq_of_lt hroom] at hmod
  omega

theorem AsyncFifo.contents_accept (h : q.Inv aw) (hroom : q.trueCount aw < 2 ^ aw) (b : Byte) :
    (q.accept aw b).contents id aw = q.contents id aw ++ [b] := by
  have hold : ∀ k ∈ List.range (q.trueCount aw),
      (q.accept aw b).mem.read id ((q.rbin + k) % 2 ^ aw) = q.mem.read id ((q.rbin + k) % 2 ^ aw) :=
    fun k hk => Memory.read_write_other _ _ _ (AsyncFifo.pending_slot_ne h.coded hroom (List.mem_range.mp hk))
  have hnew : (q.accept aw b).mem.read id ((q.rbin + q.trueCount aw) % 2 ^ aw) = b := by
    rw [AsyncFifo.wbin_slot h.coded]
    exact Memory.read_write_same _ _ _ _ h.memory
  rw [AsyncFifo.contents, AsyncFifo.trueCount_accept h.coded hroom, AsyncFifo.accept_rbin, List.range_succ, List.map_append,
    List.map_congr_left hold, List.map_singleton, hnew]
  rfl

theorem AsyncFifo.contents_advance (h : q.Inv aw) (hbyte : q.trueCount aw ≠ 0) :
    q.contents id aw = q.front id aw :: (q.advance aw).contents id aw := by
  have hshift (k : Nat) : ((q.rbin + 1) % 2 ^ (aw + 1) + k) % 2 ^ aw = (q.rbin + (k + 1)) % 2 ^ aw := by
    rw [← Nat.mod_add_mod, Nat.mod_mod_of_dvd _ ⟨2, Nat.pow_succ ..⟩, Nat.mod_add_mod]
    congr 1
    omega
  obtain ⟨n, hn⟩ := Nat.exists_eq_add_one_of_ne_zero hbyte
  have hadvance := AsyncFifo.trueCount_advance h.coded hbyte
  rw [hn, Nat.add_sub_cancel] at hadvance
  rw [AsyncFifo.contents, hn, List.range_succ_eq_map, List.map_cons, List.map_map, AsyncFifo.contents, hadvance]
  refine congrArg₂ _ rfl (List.map_congr_left fun k _ => ?_)
  exact congrArg (q.mem.read id) (hshift k).symm

end

theorem State.aw_pos (s : State) (q : QueueId) : 1 ≤ s.aw q := by
  cases q
  · exact s.cfg.rxAw_pos
  · exact s.cfg.txAw_pos

@[simp] theorem State.setFifo_fifo (s : State) (q : QueueId) (f : AsyncFifo) : (s.setFifo q f).fifo q = f := by
  cases q <;> rfl

theorem State.setRet_fifo (s : State) (r : Returned) (q : QueueId) : (s.setRet r).fifo q = s.fifo q := by
  cases q <;> rfl

theorem State.observe_fifo (s : State) (e : Event) (q : QueueId) : (s.observe e).fifo q = s.fifo q := by
  cases q <;> rfl

theorem exec_aqPush (q : QueueId) (b : Byte) (s : State) :
    exec (.aqPush q b) s = .next ((aqPush q b s).2.setRet (.accepted (aqPush q b s).1)) := rfl

theorem exec_aqPop (q : QueueId) (s : State) :
    exec (.aqPop q) s = .next ((aqPop q s).2.setRet (.dequeued (aqPop q s).1)) := rfl

/-- Settles O48: a push with room writes the slot after the pending ones, and a rejected one changes only the trace. -/
theorem pushAppendsToThePendingBytes : Obligations.PushAppendsToThePendingBytes := by
  intro s q b h
  refine ⟨_, exec_aqPush q b s, ?_⟩
  rcases aqPush_cases q b s with ⟨-, hq⟩ | ⟨hroom, hq⟩ <;> rw [hq, State.setRet_fifo]
  · exact .inr ⟨rfl, by rw [State.observe_fifo]⟩
  · have hlt := h.trueCount_le_wrCount.trans_lt (h.wrCount_lt (s.aw_pos q) hroom)
    exact .inl ⟨rfl, by rw [State.setFifo_fifo, AsyncFifo.contents_accept _ h hlt]⟩

/-- Settles O49: a pop with a byte in view reads the slot of the oldest one and steps over it. -/
theorem popTakesTheOldestPendingByte : Obligations.PopTakesTheOldestPendingByte := by
  intro s q h
  refine ⟨_, exec_aqPop q s, ?_⟩
  rcases aqPop_cases q s with ⟨-, hq⟩ | ⟨hbyte, hq⟩ <;> rw [hq, State.setRet_fifo]
  · exact .inr ⟨rfl, rfl⟩
  · have hpos := (h.rdCount_pos hbyte).trans_le h.rdCount_le
    exact .inl ⟨_, rfl, by rw [State.setFifo_fifo]; exact AsyncFifo.contents_advance _ h (by omega)⟩

/-! ### The staging queue (spec/40_bytequeue.md R82, R83, R85) -/

/-- A staging cursor stepped by comparison is the cursor modulo the depth. -/
theorem nextCursor_eq_mod {depth c : Nat} (h : c < depth) : nextCursor depth c = (c + 1) % depth := by
  rw [nextCursor, succ_mod_of_lt h]

theorem Config.mod_stNw {c : Config} {n : Nat} (h : n ≤ c.stDepth) : n % 2 ^ c.stNw = n := by
  have := le_two_pow_ceilLog2 (c.stDepth + 1)
  exact Nat.mod_eq_of_lt (by rw [Config.stNw]; omega)

/-- The staging queue with a byte more, where there is room for it. -/
def StagingQueue.enq (depth : Nat) (b : Byte) (q : StagingQueue) : StagingQueue :=
  { q with mem := q.mem.write q.inp b, inp := nextCursor depth q.inp, cnt := q.cnt + 1 }

/-- The staging queue without its oldest byte. -/
def StagingQueue.deq (depth : Nat) (q : StagingQueue) : StagingQueue :=
  { q with out := nextCursor depth q.out, cnt := q.cnt - 1 }

theorem stqEnq_of_full (b : Byte) {s : State} (h : s.stq.cnt = s.cfg.stDepth) :
    stqEnq b s = .ok (false, s.observe (.dropStaging b)) := by
  simp [stqEnq, State.stqFull, h]

theorem stqEnq_of_room (b : Byte) {s : State} (hc : s.stq.cnt < s.cfg.stDepth) (hi : s.stq.inp < s.cfg.stDepth) :
    stqEnq b s = .ok (true, s.setStq (s.stq.enq s.cfg.stDepth b)) := by
  simp [stqEnq, State.stqFull, hc.ne, hi, Config.mod_stNw (Nat.succ_le_of_lt hc), StagingQueue.enq]

section
variable {depth : Nat} {q : StagingQueue}

theorem StagingQueue.Inv.enq (h : q.Inv depth) (hroom : q.cnt < depth) (b : Byte) : (q.enq depth b).Inv depth where
  memory := Memory.write_wf h.inp_lt h.memory
  inp_lt := nextCursor_lt h.inp_lt
  out_lt := h.out_lt
  cnt_le := hroom
  inp_eq := by
    change nextCursor depth q.inp = (q.out + (q.cnt + 1)) % depth
    rw [nextCursor_eq_mod h.inp_lt, h.inp_eq, Nat.mod_add_mod, Nat.add_assoc]

theorem StagingQueue.Inv.deq (h : q.Inv depth) (hbyte : q.cnt ≠ 0) : (q.deq depth).Inv depth where
  memory := h.memory
  inp_lt := h.inp_lt
  out_lt := nextCursor_lt h.out_lt
  cnt_le := (Nat.sub_le _ _).trans h.cnt_le
  inp_eq := by
    change q.inp = (nextCursor depth q.out + (q.cnt - 1)) % depth
    rw [nextCursor_eq_mod h.out_lt, Nat.mod_add_mod, h.inp_eq]
    congr 1
    omega

theorem StagingQueue.contents_enq (h : q.Inv depth) (hroom : q.cnt < depth) (b : Byte) :
    (q.enq depth b).contents depth = q.contents depth ++ [b] := by
  have hne {k : Nat} (hk : k < q.cnt) : (q.out + k) % depth ≠ q.inp := by
    rw [h.inp_eq]
    intro heq
    have hmod : k ≡ q.cnt [MOD depth] := Nat.ModEq.add_left_cancel' q.out heq
    rw [Nat.ModEq, Nat.mod_eq_of_lt (hk.trans hroom), Nat.mod_eq_of_lt hroom] at hmod
    omega
  have hold : ∀ k ∈ List.range q.cnt,
      (q.mem.write q.inp b).read .stqMem ((q.out + k) % depth) = q.mem.read .stqMem ((q.out + k) % depth) :=
    fun k hk => Memory.read_write_other _ _ _ (hne (List.mem_range.mp hk))
  have hnew : (q.mem.write q.inp b).read .stqMem ((q.out + q.cnt) % depth) = b := by
    rw [← h.inp_eq]
    exact Memory.read_write_same _ _ _ _ h.memory
  rw [StagingQueue.contents, StagingQueue.enq, List.range_succ, List.map_append, List.map_congr_left hold,
    List.map_singleton, hnew]
  rfl

theorem StagingQueue.contents_deq (h : q.Inv depth) (hbyte : q.cnt ≠ 0) :
    q.contents depth = q.mem.read .stqMem q.out :: (q.deq depth).contents depth := by
  obtain ⟨n, hn⟩ := Nat.exists_eq_add_one_of_ne_zero hbyte
  rw [StagingQueue.contents, hn, List.range_succ_eq_map, List.map_cons, List.map_map, StagingQueue.contents,
    StagingQueue.deq, hn, Nat.add_sub_cancel, Nat.add_zero, Nat.mod_eq_of_lt h.out_lt, nextCursor_eq_mod h.out_lt]
  refine congrArg _ (List.map_congr_left fun k _ => ?_)
  rw [Function.comp_apply, Nat.mod_add_mod, Nat.succ_eq_add_one, Nat.add_assoc, Nat.add_comm 1 k]

end

theorem StagingQueue.contents_of_empty {q : StagingQueue} (depth : Nat) (h : q.cnt = 0) : q.contents depth = [] := by
  rw [StagingQueue.contents, h]; rfl

theorem exec_stqEnq {b : Byte} {s : State} {r : Bool × State} (h : stqEnq b s = .ok r) :
    exec (.stqEnq b) s = .next (r.2.setRet (.accepted r.1)) := by
  change toOut ((stqEnq b s).map _) = _
  rw [h]; rfl

theorem exec_stqDeq {s : State} {r : Option Byte × State} (h : stqDeq s = .ok r) :
    exec .stqDeq s = .next (r.2.setRet (.dequeued r.1)) := by
  change toOut ((stqDeq s).map _) = _
  rw [h]; rfl

/-- Settles O50: an enqueue writes the slot after the pending ones, a dequeue reads the slot of the oldest. -/
theorem stagingQueueIsFirstInFirstOut : Obligations.StagingQueueIsFirstInFirstOut := by
  intro s b h
  constructor
  · rcases Nat.lt_or_eq_of_le h.cnt_le with hroom | hfull
    · refine ⟨_, exec_stqEnq (stqEnq_of_room b hroom h.inp_lt), h.enq hroom b, ?_⟩
      rw [if_neg hroom.ne]
      exact StagingQueue.contents_enq h hroom b
    · exact ⟨_, exec_stqEnq (stqEnq_of_full b hfull), h, (if_pos hfull).symm⟩
  · by_cases hempty : s.stq.cnt = 0
    · have hnil := StagingQueue.contents_of_empty s.cfg.stDepth hempty
      exact ⟨_, exec_stqDeq (stqDeq_of_empty hempty), h, by rw [hnil]; rfl, by rw [hnil]; exact hnil⟩
    · have hcons := StagingQueue.contents_deq h hempty
      exact ⟨_, exec_stqDeq (stqDeq_of_staged hempty h.out_lt), h.deq hempty, by rw [hcons]; rfl, by rw [hcons]; rfl⟩

end Sys2Proof.Machine

/-! PROOFS. The parser's part of the invariant (spec/43_parser.md R158, spec/10_state.md R19, spec/60_exceptions.md R201). Every row of the parser leaves the counters of the state it enters, and touches outside the parser's registers nothing but `txq`, by one diagnostic. -/

namespace Sys2Proof.Machine

/-! ### What a row keeps and what it leaves -/

/-- The invariant of the parser's registers and the Page, the two pulses apart. -/
structure RecordInv (s : State) : Prop where
  counters : PendingInv s.pstate s.pend s.page.len
  highNibble : s.pend.nibPhase = true → s.pend.acc.extractLsb' 0 4 = 0
  pageLen : s.page.len ≤ 255
  pageData : s.page.data.wf s.cfg.pageSize = true
  errorCause : s.pstate = .error ↔ s.errCause ≠ none

theorem ParserInv.record {s : State} (h : ParserInv s) : RecordInv s :=
  ⟨h.counters, h.highNibble, h.pageLen, h.pageData, h.errorCause⟩

theorem RecordInv.of_kept {s t : State} (h : RecordInv s) (hk : ParserKept s t) (hc : t.cfg = s.cfg) : RecordInv t where
  counters := by rw [hk.pstate, hk.pend, hk.page]; exact h.counters
  highNibble := by rw [hk.pend]; exact h.highNibble
  pageLen := by rw [hk.page]; exact h.pageLen
  pageData := by rw [hk.page, hc]; exact h.pageData
  errorCause := by rw [hk.pstate, hk.errCause]; exact h.errorCause

theorem RecordInv.errCause_eq_none {s : State} (h : RecordInv s) (hp : s.pstate ≠ .error) : s.errCause = none :=
  not_not.mp (mt h.errorCause.mpr hp)

/-- Outside Error there is no cause to account for. -/
theorem RecordInv.of_no_error {t : State} (hp : t.pstate ≠ .error) (he : t.errCause = none)
    (hc : PendingInv t.pstate t.pend t.page.len) (hn : t.pend.nibPhase = true → t.pend.acc.extractLsb' 0 4 = 0)
    (hl : t.page.len ≤ 255) (hd : t.page.data.wf t.cfg.pageSize = true) : RecordInv t :=
  ⟨hc, hn, hl, hd, iff_of_false hp (not_not.mpr he)⟩

/-- What a row leaves outside the parser: all of it, but for one diagnostic pushed into `txq`. -/
structure ParserFrame (s t : State) : Prop where
  cfg : t.cfg = s.cfg
  rxq : t.rxq = s.rxq
  stq : t.stq = s.stq
  tr : t.tr = s.tr
  phase : t.phase = s.phase
  txq : t.txq = s.txq ∨ ∃ b, t.txq = (diagPush b s).txq

/-- From `s` to `t` the parser has made one step. -/
structure ParserNext (s t : State) : Prop where
  record : RecordInv t
  frame : ParserFrame s t

theorem diagPush_frame (b : Byte) (s : State) : ParserFrame s (diagPush b s) :=
  ⟨by simp, by simp, by simp, by simp, by simp, .inr ⟨b, rfl⟩⟩

/-- A frame from a state that differs from `s` in the parser's registers only. -/
theorem ParserFrame.from_same {s s' t : State} (h : ParserFrame s' t) (hc : s'.cfg = s.cfg) (hr : s'.rxq = s.rxq)
    (hs : s'.stq = s.stq) (ht : s'.tr = s.tr) (hp : s'.phase = s.phase) (hq : s'.txq = s.txq)
    (htrace : s'.trace = s.trace) : ParserFrame s t where
  cfg := h.cfg.trans hc
  rxq := h.rxq.trans hr
  stq := h.stq.trans hs
  tr := h.tr.trans ht
  phase := h.phase.trans hp
  txq := by
    rcases h.txq with htxq | ⟨b, htxq⟩
    · exact .inl (htxq.trans hq)
    · exact .inr ⟨b, htxq.trans (diagPush_trace_txq_congr b hc hq htrace).2⟩

/-- The entry into Error asks nothing of the counters (spec/60_exceptions.md R200, R201). -/
theorem enterError_next (c : Cause) {s : State} (hn : s.pend.nibPhase = true → s.pend.acc.extractLsb' 0 4 = 0)
    (hl : s.page.len ≤ 255) (hd : s.page.data.wf s.cfg.pageSize = true) : ParserNext s (enterError c s) where
  record :=
    { counters := by rw [enterError_pstate]; trivial
      highNibble := by rw [enterError_pend]; exact hn
      pageLen := by rw [enterError_page]; exact hl
      pageData := by rw [enterError_page, enterError_cfg]; exact hd
      errorCause := by simp }
  frame := (diagPush_frame _ _).from_same rfl rfl rfl rfl rfl rfl rfl

/-- A completed byte leaves no nibble waiting. -/
theorem no_nibble_waiting {acc : Byte} (h : false = true) : acc.extractLsb' 0 4 = 0 := absurd h Bool.false_ne_true

theorem lowNibble_append (v w : Nibble) : (v ++ w : Byte).extractLsb' 0 4 = w := by
  revert v w; decide

/-- What follows the diagnostic of the end of the file (spec/43_parser.md R154). -/
def endFile (d : State) : State :=
  { d with pend := .initial, eofValid := true, trace := .eof :: d.trace, pstate := .init }

/-! ### The rows, by parser state (spec/43_parser.md R137 to R157) -/

section
variable {s : State} (h : RecordInv s)
include h

theorem raiseFraming_next : ParserNext s (raiseFraming s) := enterError_next _ h.highNibble h.pageLen h.pageData

theorem initSkip_next (hp : s.pstate = .init) : ParserNext s (initSkip s) := by
  have hsame : initSkip s = s := by rw [initSkip, ← hp]; rfl
  rw [hsame]
  exact ⟨h, rfl, rfl, rfl, rfl, rfl, .inl rfl⟩

omit h in
/-- A start of a record asks nothing of what came before. -/
theorem initStart_next : ParserNext s (initStart s) := by
  rw [initStart_eq_inRecord]
  exact ⟨.of_no_error (by simp [State.inRecord]) rfl ⟨rfl, rfl, rfl, rfl, rfl, rfl, rfl⟩ no_nibble_waiting
    (Nat.zero_le _) (Memory.cleared_wf _), rfl, rfl, rfl, rfl, rfl, .inl rfl⟩

theorem bcNib_next (v : Nibble) (hp : s.pstate = .byteCount) : ParserNext s (bcNib v s) := by
  have herr := h.errCause_eq_none (by simp [hp])
  have hcount := h.counters
  rw [hp] at hcount
  obtain ⟨hbc, haddr, hrt, hck, hrec, hty, hlen⟩ := hcount
  cases hn : s.pend.nibPhase with
  | false =>
    have hbc : s.pend.bcRem = 2 := by simpa [hn] using hbc
    rw [bcNib_high v hn]
    exact ⟨.of_no_error (by simp) herr ⟨by simp [hbc], haddr, hrt, hck, hrec, hty, hlen⟩
      (fun _ => lowNibble_append v 0) h.pageLen h.pageData, rfl, rfl, rfl, rfl, rfl, .inl rfl⟩
  | true =>
    have hbc : s.pend.bcRem = 1 := by simpa [hn] using hbc
    rw [bcNib_low v hn rfl]
    exact ⟨.of_no_error (by simp) herr ⟨by simp [hbc], .inl haddr, hrt, hck, hty, hlen⟩
      no_nibble_waiting h.pageLen h.pageData, rfl, rfl, rfl, rfl, rfl, .inl rfl⟩

theorem addrNib_next (v : Nibble) (hp : s.pstate = .address) : ParserNext s (addrNib v s) := by
  have herr := h.errCause_eq_none (by simp [hp])
  have hcount := h.counters
  rw [hp] at hcount
  obtain ⟨hbc, haddr, hrt, hck, hty, hlen⟩ := hcount
  cases hn : s.pend.nibPhase with
  | false =>
    have haddr : s.pend.addrRem - 1 = 3 ∨ s.pend.addrRem - 1 = 1 := by
      have hcases : s.pend.addrRem = 4 ∨ s.pend.addrRem = 2 := by simpa [hn] using haddr
      rcases hcases with hr | hr <;> simp [hr]
    rw [addrNib_high v hn]
    exact ⟨.of_no_error (by simp) herr ⟨hbc, haddr, hrt, hck, hty, hlen⟩
      (fun _ => lowNibble_append v 0) h.pageLen h.pageData, rfl, rfl, rfl, rfl, rfl, .inl rfl⟩
  | true =>
    have haddr : s.pend.addrRem = 3 ∨ s.pend.addrRem = 1 := by simpa [hn] using haddr
    rcases haddr with hr | hr
    · rw [addrNib_low_first v hn hr rfl]
      exact ⟨.of_no_error (by simp) herr ⟨hbc, .inr rfl, hrt, hck, hty, hlen⟩
        no_nibble_waiting h.pageLen h.pageData, rfl, rfl, rfl, rfl, rfl, .inl rfl⟩
    · rw [addrNib_low_second v hn hr rfl]
      exact ⟨.of_no_error (by simp) herr ⟨hbc, rfl, hrt, hck, hty, hlen⟩
        no_nibble_waiting h.pageLen h.pageData, rfl, rfl, rfl, rfl, rfl, .inl rfl⟩

omit h in
theorem recordKind_data (u : State) :
    recordKind 0x00 u = { u with pstate := if u.pend.recLen = 0x00 then .checksum else .data } := rfl

theorem rtNib_next (v : Nibble) (hp : s.pstate = .recordType) : ParserNext s (rtNib v s) := by
  have herr := h.errCause_eq_none (by simp [hp])
  have hcount := h.counters
  rw [hp] at hcount
  obtain ⟨hbc, haddr, hrt, hck, hty, hlen⟩ := hcount
  cases hn : s.pend.nibPhase with
  | false =>
    have hrt : s.pend.rtRem = 2 := by simpa [hn] using hrt
    rw [rtNib_high v hn]
    exact ⟨.of_no_error (by simp) herr ⟨hbc, haddr, by simp [hrt], hck, hty, hlen⟩
      (fun _ => lowNibble_append v 0) h.pageLen h.pageData, rfl, rfl, rfl, rfl, rfl, .inl rfl⟩
  | true =>
    have hrt : s.pend.rtRem - 1 = 0 := by simp [show s.pend.rtRem = 1 by simpa [hn] using hrt]
    rw [rtNib_low v hn rfl]
    generalize s.pend.acc.extractLsb' 4 4 ++ v = t
    by_cases h0 : t = 0x00
    · subst h0
      rw [recordKind_data]
      by_cases hrec : s.pend.recLen = 0x00
      · rw [if_pos hrec]
        exact ⟨.of_no_error (by simp) herr ⟨hbc, haddr, hrt, hck, rfl, by simp [hlen, hrec]⟩
          no_nibble_waiting h.pageLen h.pageData, rfl, rfl, rfl, rfl, rfl, .inl rfl⟩
      · have hpos : 0 < s.pend.recLen.toNat := Nat.pos_of_ne_zero fun hz => hrec (BitVec.eq_of_toNat_eq hz)
        rw [if_neg hrec]
        exact ⟨.of_no_error (by simp) herr ⟨hbc, haddr, hrt, hck, rfl, hlen.trans_lt hpos⟩
          no_nibble_waiting h.pageLen h.pageData, rfl, rfl, rfl, rfl, rfl, .inl rfl⟩
    · by_cases h1 : t = 0x01
      · subst h1
        exact ⟨.of_no_error (by simp [recordKind, recEof]) herr ⟨hbc, haddr, hrt, .inl hck, rfl, rfl, hlen⟩
          no_nibble_waiting h.pageLen h.pageData, rfl, rfl, rfl, rfl, rfl, .inl rfl⟩
      · rw [recordKind, if_neg h0, if_neg h1]
        have hnext := enterError_next .recType (s := { s with
          pend := { s.pend with rtRem := s.pend.rtRem - 1, acc := t, nibPhase := false, recType := t }
          cksum := s.cksum + t }) no_nibble_waiting h.pageLen h.pageData
        exact ⟨hnext.record, hnext.frame.from_same rfl rfl rfl rfl rfl rfl rfl⟩

theorem RecordInv.room (hp : s.pstate = .data) : s.page.len < s.pend.recLen.toNat ∧ s.page.len < s.cfg.pageSize := by
  have hcount := h.counters
  rw [hp] at hcount
  obtain ⟨-, -, -, -, -, hlen⟩ := hcount
  have := s.pend.recLen.isLt
  have := s.cfg.pageSize_min
  exact ⟨hlen, by omega⟩

theorem dataNib_next (v : Nibble) (hp : s.pstate = .data) : ∃ t, dataNib v s = .ok t ∧ ParserNext s t := by
  have herr := h.errCause_eq_none (by simp [hp])
  obtain ⟨hlen, hroom⟩ := h.room hp
  have hcount := h.counters
  rw [hp] at hcount
  obtain ⟨hbc, haddr, hrt, hck, hty, -⟩ := hcount
  cases hn : s.pend.nibPhase with
  | false =>
    exact ⟨_, dataNib_high v hn, .of_no_error (by simp) herr ⟨hbc, haddr, hrt, hck, hty, hlen⟩
      (fun _ => lowNibble_append v 0) h.pageLen h.pageData, rfl, rfl, rfl, rfl, rfl, .inl rfl⟩
  | true =>
    have hbound : s.page.len + 1 ≤ 255 := by have := s.pend.recLen.isLt; omega
    refine ⟨_, dataNib_low v hn hroom rfl, .of_no_error ?_ herr ?_ no_nibble_waiting hbound
      (Page.push_wf _ hroom h.pageData), rfl, rfl, rfl, rfl, rfl, .inl rfl⟩
    · dsimp only
      split <;> simp
    · dsimp only
      split
      · next hfull => exact ⟨hbc, haddr, hrt, by simp [hck], hty, hfull⟩
      · next hmore => exact ⟨hbc, haddr, hrt, hck, hty, by rw [Page.push_len]; dsimp only; omega⟩

omit h in
theorem checksumGood_eq (u : State) : checksumGood u = { u with
    pend := .initial
    commitValid := true
    trace := .commit u.page.addr u.page.bytes u.page.len :: u.trace
    pstate := .init } := by
  simp only [checksumGood, resetPending, commit, State.setPend, State.observe, State.setCommitValid, State.setPstate]

theorem ckNib_next (v : Nibble) (hp : s.pstate = .checksum) : ParserNext s (ckNib v s) := by
  have herr := h.errCause_eq_none (by simp [hp])
  have hcount := h.counters
  rw [hp] at hcount
  obtain ⟨hbc, haddr, hrt, hck, hty, hlen⟩ := hcount
  cases hn : s.pend.nibPhase with
  | false =>
    have hck : s.pend.ckRem = 2 := by simpa [hn] using hck
    rw [ckNib_high v hn]
    exact ⟨.of_no_error (by simp) herr ⟨hbc, haddr, hrt, by simp [hck], hty, hlen⟩
      (fun _ => lowNibble_append v 0) h.pageLen h.pageData, rfl, rfl, rfl, rfl, rfl, .inl rfl⟩
  | true =>
    rw [ckNib_low v hn rfl]
    generalize s.pend.acc.extractLsb' 4 4 ++ v = y
    by_cases hsum : s.cksum + y = 0x00
    · rw [closeRecord_of_zero hsum, checksumGood_eq]
      exact ⟨.of_no_error (by simp) herr rfl no_nibble_waiting h.pageLen h.pageData,
        rfl, rfl, rfl, rfl, rfl, .inl rfl⟩
    · rw [closeRecord_of_ne_zero hsum]
      have hnext := enterError_next .checksum (s := { s with
        pend := { s.pend with ckRem := s.pend.ckRem - 1, acc := y, nibPhase := false }
        cksum := s.cksum + y }) no_nibble_waiting h.pageLen h.pageData
      exact ⟨hnext.record, hnext.frame.from_same rfl rfl rfl rfl rfl rfl rfl⟩

omit h in
theorem endAny_of_last (hlast : s.pend.ckRem = 1) : endAny s = endFile (diagPush s.cfg.diagEof s) := by
  rw [endAny, if_pos hlast]
  simp only [endFile, resetPending, State.setPend, State.observe, State.setEofValid, State.setPstate]

theorem endAny_next (hp : s.pstate = .endState) : ParserNext s (endAny s) := by
  have herr := h.errCause_eq_none (by simp [hp])
  have hcount := h.counters
  rw [hp] at hcount
  obtain ⟨hbc, haddr, hrt, hck, hn, hty, hlen⟩ := hcount
  by_cases hlast : s.pend.ckRem = 1
  · rw [endAny_of_last hlast]
    have hkept : ParserKept s (diagPush s.cfg.diagEof s) := ⟨by simp, by simp, by simp, by simp, by simp⟩
    obtain ⟨hcfg, hrxq, hstq, htr, hphase, htxq⟩ := diagPush_frame s.cfg.diagEof s
    have hrec := h.of_kept hkept hcfg
    exact ⟨.of_no_error (by simp [endFile]) (hkept.errCause.trans herr) rfl no_nibble_waiting hrec.pageLen hrec.pageData,
      hcfg, hrxq, hstq, htr, hphase, htxq⟩
  · have hck : s.pend.ckRem - 1 = 1 := by simp [hck.resolve_right hlast]
    rw [endAny, if_neg hlast]
    exact ⟨.of_no_error (by simp) herr ⟨hbc, haddr, hrt, .inr hck, hn, hty, hlen⟩ h.highNibble h.pageLen h.pageData,
      rfl, rfl, rfl, rfl, rfl, .inl rfl⟩

theorem errAny_next (b : Byte) (hp : s.pstate = .error) : ParserNext s (errAny b s) := by
  have hkeep : ∀ t, ParserFrame s t → ParserKept s t → ParserNext s (t.setPstate .error) := fun t hf hk =>
    ⟨(h.of_kept hk hf.cfg).of_kept ⟨(hk.pstate.trans hp).symm, rfl, rfl, rfl, rfl⟩ rfl,
      hf.cfg, hf.rxq, hf.stq, hf.tr, hf.phase, hf.txq⟩
  rw [errAny]
  split
  · exact hkeep _ (diagPush_frame b s) ⟨by simp, by simp, by simp, by simp, by simp⟩
  · exact hkeep s ⟨rfl, rfl, rfl, rfl, rfl, .inl rfl⟩ ⟨rfl, rfl, rfl, rfl, rfl⟩

/-- Every byte takes the parser from a good state to a good state. -/
theorem parserStep_next (b : Byte) : ∃ t, parserStep b s = .ok t ∧ ParserNext s t := by
  rw [parserStep]
  split
  case h_1 hop => exact ⟨_, rfl, initSkip_next h (pstate_of_selectPstep hop)⟩
  case h_2 | h_16 => exact ⟨_, rfl, initStart_next⟩
  case h_4 hop => exact ⟨_, rfl, bcNib_next h _ (pstate_of_selectPstep hop)⟩
  case h_6 hop => exact ⟨_, rfl, addrNib_next h _ (pstate_of_selectPstep hop)⟩
  case h_8 hop => exact ⟨_, rfl, rtNib_next h _ (pstate_of_selectPstep hop)⟩
  case h_10 hop => exact dataNib_next h _ (pstate_of_selectPstep hop)
  case h_12 hop => exact ⟨_, rfl, ckNib_next h _ (pstate_of_selectPstep hop)⟩
  case h_14 hop => exact ⟨_, rfl, endAny_next h (pstate_of_selectPstep hop)⟩
  case h_15 hop => exact ⟨_, rfl, errAny_next h b (pstate_of_selectPstep hop)⟩
  all_goals exact ⟨_, rfl, raiseFraming_next h⟩

end

/-! ### The pulses (spec/45_orchestrator.md R185) -/

/-- What a pulse says of the parser: that it has come back to Init, and for a commit that the sum was zero. -/
structure PulsesMean (s : State) : Prop where
  commit : s.commitValid = true → s.pstate = .init ∧ s.cksum = 0x00
  eof : s.eofValid = true → s.pstate = .init

theorem PulsesMean.of_low {s : State} (hc : s.commitValid = false) (he : s.eofValid = false) : PulsesMean s :=
  ⟨fun h => absurd h (by simp [hc]), fun h => absurd h (by simp [he])⟩

theorem ckNib_pulsesMean (v : Nibble) {s : State} (hc : s.commitValid = false) (he : s.eofValid = false) :
    PulsesMean (ckNib v s) := by
  cases hn : s.pend.nibPhase with
  | false => rw [ckNib_high v hn]; exact .of_low hc he
  | true =>
    rw [ckNib_low v hn rfl]
    generalize s.pend.acc.extractLsb' 4 4 ++ v = y
    by_cases hsum : s.cksum + y = 0x00
    · rw [closeRecord_of_zero hsum]
      exact ⟨fun _ => ⟨rfl, hsum⟩, fun _ => rfl⟩
    · rw [closeRecord_of_ne_zero hsum]
      exact .of_low ((enterError_commitValid _ _).trans hc) ((enterError_eofValid _ _).trans he)

theorem endAny_pulsesMean {s : State} (hc : s.commitValid = false) (he : s.eofValid = false) :
    PulsesMean (endAny s) := by
  by_cases hlast : s.pend.ckRem = 1
  · rw [endAny_of_last hlast]
    have hlow : (endFile (diagPush s.cfg.diagEof s)).commitValid = false := (diagPush_commitValid _ _).trans hc
    exact ⟨fun h => absurd h (by simp [hlow]), fun _ => rfl⟩
  · rw [endAny, if_neg hlast]
    exact .of_low hc he

/-- From cleared pulses the parser sets one only on its way back to Init. -/
theorem parserStep_pulsesMean {b : Byte} {s t : State} (h : parserStep b s = .ok t) (hc : s.commitValid = false)
    (he : s.eofValid = false) : PulsesMean t := by
  by_cases hck : selectPstep s.cfg.resyncOnColon s.pstate b = .ckNib
  · rw [parserStep, hck] at h
    cases h
    exact ckNib_pulsesMean _ hc he
  by_cases hend : selectPstep s.cfg.resyncOnColon s.pstate b = .endAny
  · rw [parserStep, hend] at h
    cases h
    exact endAny_pulsesMean hc he
  · have hsilent := parserStep_silent h hck hend
    exact .of_low (hsilent.commitValid.trans hc) (hsilent.eofValid.trans he)

end Sys2Proof.Machine

/-! PROOFS. The invariant of the block is kept by every step, and no step from it stops (spec/20_memory.md R53, spec/43_parser.md R158, spec/41_transport.md R120, spec/60_exceptions.md R202). A step is a few updates of single parts of the state, and each part has its own lemma of what an update needs to keep the invariant; so an edge is the list of its updates. -/

namespace Sys2Proof.Machine

/-! ### Updating one part of a good state -/

/-- The conditions on the pulses come from what they mean once the phase is ARM. -/
theorem ParserInv.of_record {s : State} (h : RecordInv s) (hm : PulsesMean s)
    (hp : s.commitValid = true ∨ s.eofValid = true → s.phase = .arm) : ParserInv s :=
  ⟨h.counters, h.highNibble, h.pageLen, h.pageData, h.errorCause,
    fun hc => ⟨(hm.commit hc).1, hp (.inl hc), (hm.commit hc).2⟩, fun he => ⟨hm.eof he, hp (.inr he)⟩⟩

/-- With both pulses low they ask nothing. -/
theorem ParserInv.of_low {s : State} (h : RecordInv s) (hc : s.commitValid = false) (he : s.eofValid = false) :
    ParserInv s :=
  .of_record h (.of_low hc he) fun hp => by simp [hc, he] at hp

section
variable {s : State} (h : s.Inv)
include h

theorem State.Inv.setRxq {q : AsyncFifo} (hq : q.Inv s.cfg.rxAw) : (s.setRxq q).Inv :=
  ⟨hq, h.txq, h.stq, ⟨h.parser.counters, h.parser.highNibble, h.parser.pageLen, h.parser.pageData,
    h.parser.errorCause, h.parser.commitPulse, h.parser.eofPulse⟩, ⟨h.arm.ghost, h.arm.requested⟩⟩

theorem State.Inv.setTxq {q : AsyncFifo} (hq : q.Inv s.cfg.txAw)
    (hreq : s.phase ≠ .arm → q.trueCount s.cfg.txAw ≠ 0 → s.tr.armReq = true) : (s.setTxq q).Inv :=
  ⟨h.rxq, hq, h.stq, ⟨h.parser.counters, h.parser.highNibble, h.parser.pageLen, h.parser.pageData,
    h.parser.errorCause, h.parser.commitPulse, h.parser.eofPulse⟩, ⟨h.arm.ghost, hreq⟩⟩

theorem State.Inv.setStq {q : StagingQueue} (hq : q.Inv s.cfg.stDepth) : (s.setStq q).Inv :=
  ⟨h.rxq, h.txq, hq, ⟨h.parser.counters, h.parser.highNibble, h.parser.pageLen, h.parser.pageData,
    h.parser.errorCause, h.parser.commitPulse, h.parser.eofPulse⟩, ⟨h.arm.ghost, h.arm.requested⟩⟩

theorem State.Inv.setTr {t : Transport} (hg : t.armFresh = true → t.armPrev = !t.armReq)
    (hreq : s.phase ≠ .arm → s.txq.trueCount s.cfg.txAw ≠ 0 → t.armReq = true) : (s.setTr t).Inv :=
  ⟨h.rxq, h.txq, h.stq, ⟨h.parser.counters, h.parser.highNibble, h.parser.pageLen, h.parser.pageData,
    h.parser.errorCause, h.parser.commitPulse, h.parser.eofPulse⟩, ⟨hg, hreq⟩⟩

/-- A write of the transmit control that leaves `arm_req` and its ghost fields alone. -/
theorem State.Inv.setTr_other {t : Transport} (hr : t.armReq = s.tr.armReq) (hp : t.armPrev = s.tr.armPrev)
    (hf : t.armFresh = s.tr.armFresh) : (s.setTr t).Inv :=
  h.setTr (by rw [hr, hp, hf]; exact h.arm.ghost) (by rw [hr]; exact h.arm.requested)

theorem State.Inv.observe (e : Event) : (s.observe e).Inv :=
  ⟨h.rxq, h.txq, h.stq, ⟨h.parser.counters, h.parser.highNibble, h.parser.pageLen, h.parser.pageData,
    h.parser.errorCause, h.parser.commitPulse, h.parser.eofPulse⟩, ⟨h.arm.ghost, h.arm.requested⟩⟩

theorem State.Inv.clearPulses : (clearPulses s).Inv :=
  ⟨h.rxq, h.txq, h.stq, .of_low (h.parser.record.of_kept ⟨rfl, rfl, rfl, rfl, rfl⟩ rfl) rfl rfl,
    ⟨h.arm.ghost, h.arm.requested⟩⟩

theorem State.Inv.setPhase {p : Phase} (hc : s.commitValid = false) (he : s.eofValid = false)
    (hreq : p ≠ .arm → s.txq.trueCount s.cfg.txAw ≠ 0 → s.tr.armReq = true) : (s.setPhase p).Inv :=
  ⟨h.rxq, h.txq, h.stq, .of_low (h.parser.record.of_kept (setPhase_keepsParser p s) rfl) hc he,
    ⟨h.arm.ghost, hreq⟩⟩

/-- The environment's choice is taken from outside the block. -/
theorem State.Inv.takeEnv : (takeEnv s).2.Inv := by
  rw [Machine.takeEnv]
  split <;>
    exact ⟨h.rxq, h.txq, h.stq, ⟨h.parser.counters, h.parser.highNibble, h.parser.pageLen, h.parser.pageData,
      h.parser.errorCause, h.parser.commitPulse, h.parser.eofPulse⟩, ⟨h.arm.ghost, h.arm.requested⟩⟩

/-! ### The synchroniser updates (spec/40_bytequeue.md R95, spec/41_transport.md R117) -/

theorem State.Inv.aqSync (side : Side) (late : Bool) : (aqSync side late s).Inv := by
  cases side with
  | rxqWrite => exact h.setRxq (h.rxq.syncWrite late)
  | rxqRead => exact h.setRxq (h.rxq.syncRead late)
  | txqWrite => exact h.setTxq (h.txq.syncWrite late) h.arm.requested
  | txqRead => exact h.setTxq (h.txq.syncRead late) h.arm.requested

theorem State.Inv.armSync (late : Bool) : (armSync late s).Inv :=
  h.setTr (fun hfresh => absurd hfresh Bool.false_ne_true) h.arm.requested

theorem State.Inv.coreSync (lateRx lateTx : Bool) : (coreSync lateRx lateTx s).Inv :=
  (h.aqSync .rxqRead lateRx).aqSync .txqWrite lateTx

/-! ### The receive and the transmit edge (spec/41_transport.md R110 to R119) -/

theorem State.Inv.rxEdge (valid : Bool) (d : Byte) (late : Bool) : (rxEdge valid d late s).Inv := by
  cases valid with
  | false => exact h.aqSync .rxqWrite late
  | true =>
    cases hf : s.rxq.full s.cfg.rxAw with
    | true => rw [rxEdge_of_full d late hf]; exact (h.observe _).setRxq (h.rxq.syncWrite late)
    | false =>
      rw [rxEdge_of_room d late hf]
      exact h.setRxq ((h.rxq.accept s.cfg.rxAw_pos hf d).syncWrite late)

theorem State.Inv.txSend (he : s.txq.empty = false) : (txSend s).Inv := by
  have hbyte := (h.txq.rdCount_pos he).trans_le h.txq.rdCount_le
  have hreq : s.phase ≠ .arm → (s.txq.advance s.cfg.txAw).trueCount s.cfg.txAw ≠ 0 → s.tr.armReq = true :=
    fun hp _ => h.arm.requested hp (by omega)
  rw [txSend_of_pending he]
  refine State.Inv.observe ((h.setTxq (h.txq.advance he) hreq).setTr_other ?_ ?_ ?_) _ <;> rfl

theorem State.Inv.txEdge (ready lateTx lateArm : Bool) : (txEdge ready lateTx lateArm s).Inv := by
  cases hsend : (ready && s.tr.txIe && !s.txq.empty) with
  | true =>
    obtain ⟨hfire, he⟩ : (ready && s.tr.txIe) = true ∧ s.txq.empty = false := by simpa using hsend
    rw [txEdge_of_send lateTx lateArm hfire he]
    exact ((h.txSend he).aqSync .txqRead lateTx).armSync lateArm
  | false =>
    rw [txEdge_of_no_send lateTx lateArm hsend]
    refine State.Inv.armSync (State.Inv.aqSync (h.setTr_other ?_ ?_ ?_) .txqRead lateTx) lateArm <;> rfl

/-! ### Reset and the operations of the core edge (spec/45_orchestrator.md R187 to R189) -/

theorem State.Inv.resetStep : (resetStep s).Inv where
  rxq := AsyncFifo.cleared_inv h.rxq.memory
  txq := AsyncFifo.cleared_inv h.txq.memory
  stq := ⟨h.stq.memory, s.cfg.stDepth_pos, s.cfg.stDepth_pos, Nat.zero_le _, (Nat.zero_mod _).symm⟩
  parser := .of_low (.of_no_error nofun rfl rfl no_nibble_waiting (Nat.zero_le _) h.parser.pageData) rfl rfl
  arm := ⟨fun hfresh => absurd hfresh Bool.false_ne_true, fun _ hcount => absurd (pointerDiff_self _ 0) hcount⟩

theorem State.Inv.clearParser : (clearParser s).Inv := by
  rw [clearParser_eq, resetPending_eq]
  exact ⟨h.rxq, h.txq, h.stq,
    .of_low (.of_no_error nofun rfl rfl no_nibble_waiting (Nat.zero_le _) h.parser.pageData) rfl rfl,
    ⟨h.arm.ghost, h.arm.requested⟩⟩

/-- After the arm phase the request stands if a byte is pending: the core's view of `txq` lags on the full side. -/
theorem State.Inv.armRequest : (armRequest s).Inv ∧
    ((armRequest s).txq.trueCount (armRequest s).cfg.txAw ≠ 0 → (armRequest s).tr.armReq = true) := by
  have hview : s.txq.trueCount s.cfg.txAw ≠ 0 → (s.txq.wrCount s.cfg.txAw != 0) = true := by
    have := h.txq.trueCount_le_wrCount
    intro hcount
    simp only [bne_iff_ne]
    omega
  rw [Machine.armRequest]
  dsimp only
  split
  · next hsame => exact ⟨h, fun hcount => hsame ▸ hview hcount⟩
  · next hdiff =>
    exact ⟨h.setTr (fun _ => Bool.eq_not.mpr (Ne.symm hdiff)) fun _ => hview, hview⟩

theorem State.Inv.coreArm (hc : s.commitValid = false) (he : s.eofValid = false) : (coreArm s).Inv := by
  have hkept : (Machine.armRequest s).commitValid = s.commitValid ∧
      (Machine.armRequest s).eofValid = s.eofValid := by
    rw [Machine.armRequest]; dsimp only; split <;> exact ⟨rfl, rfl⟩
  obtain ⟨harm, hreq⟩ := h.armRequest
  exact harm.setPhase (hkept.1.trans hc) (hkept.2.trans he) fun _ => hreq

end

/-! ### `CORE.PUMP_MOVE` and `CORE.PARSE` by their cases (spec/42_relay.md R125, spec/45_orchestrator.md R188) -/

theorem pumpMove_of_empty {s : State} (h : s.rxq.empty = true) : pumpMove s = .ok (pumpDone s) := by
  simp [pumpMove, aqPop, State.fifo, h]

theorem aqPop_rxq_of_byte {s : State} (h : s.rxq.empty = false) :
    aqPop .rxq s = (some (s.rxq.front .rxqMem s.cfg.rxAw), s.setRxq (s.rxq.advance s.cfg.rxAw)) := by
  simp [aqPop, State.fifo, State.aw, State.setFifo, fifoArray, h]

/-- With a byte in view and the staging queue full, the byte is lost. -/
theorem pumpMove_of_full {s : State} (he : s.rxq.empty = false) (hc : s.stq.cnt = s.cfg.stDepth) :
    pumpMove s = .ok (((s.setRxq (s.rxq.advance s.cfg.rxAw)).observe
      (.dropStaging (s.rxq.front .rxqMem s.cfg.rxAw))).setPhase .pump) := by
  rw [pumpMove, aqPop_rxq_of_byte he]
  dsimp only
  rw [stqEnq_of_full]
  exact hc

/-- With a byte in view and room for it, the byte is staged. -/
theorem pumpMove_of_room {s : State} (he : s.rxq.empty = false) (hc : s.stq.cnt < s.cfg.stDepth)
    (hi : s.stq.inp < s.cfg.stDepth) :
    pumpMove s = .ok (((s.setRxq (s.rxq.advance s.cfg.rxAw)).setStq
      (s.stq.enq s.cfg.stDepth (s.rxq.front .rxqMem s.cfg.rxAw))).setPhase .pump) := by
  rw [pumpMove, aqPop_rxq_of_byte he]
  dsimp only
  rw [stqEnq_of_room]
  · rfl
  · exact hc
  · exact hi

/-- The phase stays, or goes one place round PUMP, PARSE, ARM (spec/45_orchestrator.md R186). -/
def PhaseMoves (s t : State) : Prop :=
  t.phase = s.phase ∨ (s.phase = .pump ∧ t.phase = .parse) ∨ (s.phase = .parse ∧ t.phase = .arm) ∨
    (s.phase = .arm ∧ t.phase = .pump)

/-- From `s` to `t` the block has gone on: `t` is good, the parameters stay, and the phase moves as it may. -/
structure GoesOn (s t : State) : Prop where
  inv : t.Inv
  cfg : t.cfg = s.cfg
  phase : PhaseMoves s t

section
variable {s : State} (h : s.Inv) (hc : s.commitValid = false) (he : s.eofValid = false)
include h hc he

theorem pumpDone_goesOn (hp : s.phase = .pump) : GoesOn s (pumpDone s) :=
  ⟨h.setPhase hc he fun _ => h.arm.requested (by simp [hp]), rfl, .inr (.inl ⟨hp, rfl⟩)⟩

theorem pumpMove_goesOn (hp : s.phase = .pump) (hbyte : s.rxq.empty = false) :
    ∃ t, pumpMove s = .ok t ∧ GoesOn s t := by
  have hreq : Phase.pump ≠ .arm → s.txq.trueCount s.cfg.txAw ≠ 0 → s.tr.armReq = true :=
    fun _ => h.arm.requested (by simp [hp])
  have hpop := h.setRxq (h.rxq.advance hbyte)
  rcases Nat.lt_or_eq_of_le h.stq.cnt_le with hroom | hfull
  · exact ⟨_, pumpMove_of_room hbyte hroom h.stq.inp_lt,
      (hpop.setStq (h.stq.enq hroom _)).setPhase hc he hreq, rfl, .inl hp.symm⟩
  · exact ⟨_, pumpMove_of_full hbyte hfull, (hpop.observe _).setPhase hc he hreq, rfl, .inl hp.symm⟩

theorem parseNop_goesOn (hp : s.phase = .parse) : GoesOn s (parseNop s) :=
  ⟨h.setPhase hc he fun hne => absurd rfl hne, rfl, .inr (.inr (.inl ⟨hp, rfl⟩))⟩

omit hc he in
/-- A diagnostic is pushed only where the core's view of `txq` has room. -/
theorem State.Inv.diagPush_txq (b : Byte) : (diagPush b s).txq.Inv s.cfg.txAw := by
  rcases diagPush_cases b s with ⟨-, hq⟩ | ⟨hroom, hq⟩ <;> rw [hq]
  · exact h.txq
  · exact h.txq.accept s.cfg.txAw_pos hroom b

/-- The parser's step on the oldest staged byte; in ARM, where the phase then is, nothing is asked of `arm_req`. -/
theorem coreParse_goesOn (hp : s.phase = .parse) (hbyte : s.stq.cnt ≠ 0) :
    ∃ t, coreParse s = .ok t ∧ GoesOn s t := by
  have hdeq : (s.setStq (s.stq.deq s.cfg.stDepth)).Inv := h.setStq (h.stq.deq hbyte)
  obtain ⟨t, ht, hrec, hframe⟩ := parserStep_next hdeq.parser.record s.stagedByte
  obtain ⟨hcfg, hrxq, hstq, htr, -, htxq⟩ := hframe
  have hcfg : t.cfg = s.cfg := hcfg
  refine ⟨_, coreParse_of_parserStep hbyte h.stq.out_lt ht, ⟨?_, ?_, ?_, ?_, ?_⟩, hcfg, .inr (.inr (.inl ⟨hp, rfl⟩))⟩
  · change t.rxq.Inv t.cfg.rxAw
    rw [hrxq, hcfg]; exact h.rxq
  · change t.txq.Inv t.cfg.txAw
    rw [hcfg]
    rcases htxq with htxq | ⟨b, htxq⟩ <;> rw [htxq]
    · exact h.txq
    · exact hdeq.diagPush_txq b
  · change t.stq.Inv t.cfg.stDepth
    rw [hstq, hcfg]; exact hdeq.stq
  · have hmean := parserStep_pulsesMean ht hc he
    exact .of_record (hrec.of_kept (setPhase_keepsParser .arm t) rfl) ⟨hmean.commit, hmean.eof⟩ fun _ => rfl
  · refine ⟨?_, fun hne => absurd rfl hne⟩
    change t.tr.armFresh = true → _
    rw [htr]
    change _ → t.tr.armPrev = !t.tr.armReq
    rw [htr]
    exact h.arm.ghost

theorem coreOperation_goesOn (clr : Bool) : ∃ t, coreOperation clr s = .ok t ∧ GoesOn s t := by
  cases clr with
  | true => exact ⟨_, rfl, h.clearParser, by rw [clearParser_eq]; rfl, .inl (by rw [clearParser_eq]; rfl)⟩
  | false =>
    rw [coreOperation, if_neg Bool.false_ne_true]
    cases hp : s.phase with
    | pump =>
      cases hbyte : s.rxq.empty with
      | true => exact ⟨_, rfl, pumpDone_goesOn h hc he hp⟩
      | false => exact pumpMove_goesOn h hc he hp hbyte
    | parse =>
      by_cases hbyte : s.stq.cnt = 0
      · exact ⟨_, if_pos (by simp [State.stqEmpty, hbyte]), parseNop_goesOn h hc he hp⟩
      · obtain ⟨t, ht, hgoes⟩ := coreParse_goesOn h hc he hp hbyte
        exact ⟨t, (if_neg (by simp [State.stqEmpty, hbyte])).trans ht, hgoes⟩
    | arm =>
      refine ⟨_, rfl, h.coreArm hc he, ?_, .inr (.inr (.inr ⟨hp, rfl⟩))⟩
      simp only [coreArm, armRequest]; split <;> rfl

end

/-! ### The step -/

/-- Every choice of the environment takes a good state to a good state. -/
theorem stepWith_goesOn {s : State} (h : s.Inv) (e : EnvStep) :
    ∃ t, stepWith e s = .next t ∧ t.Inv ∧ t.cfg = s.cfg ∧ (PhaseMoves s t ∨ e = .rst) := by
  cases e with
  | rx v d l =>
    have hsame : (rxEdge v d l s).cfg = s.cfg ∧ (rxEdge v d l s).phase = s.phase := by
      cases v with
      | false => exact ⟨rfl, rfl⟩
      | true =>
        cases hf : s.rxq.full s.cfg.rxAw with
        | true => rw [rxEdge_of_full d l hf]; exact ⟨rfl, rfl⟩
        | false => rw [rxEdge_of_room d l hf]; exact ⟨rfl, rfl⟩
    exact ⟨_, stepWith_rx_eq v d l s, h.rxEdge v d l, hsame.1, .inl (.inl hsame.2)⟩
  | core clr l l' =>
    obtain ⟨t, ht, hinv, hcfg, hphase⟩ := coreOperation_goesOn h.clearPulses rfl rfl clr
    have hstep : stepWith (.core clr l l') s = .next (coreSync l l' t) := by
      rw [stepWith_core_eq, exec_coreEdge, ← coreInstr_clearPulses, exec_coreInstr, ht]
      rfl
    exact ⟨_, hstep, hinv.coreSync l l', hcfg, .inl hphase⟩
  | tx r l l' =>
    have hsame : (txEdge r l l' s).cfg = s.cfg ∧ (txEdge r l l' s).phase = s.phase := by
      cases hsend : (r && s.tr.txIe && !s.txq.empty) with
      | true =>
        obtain ⟨hfire, he⟩ : (r && s.tr.txIe) = true ∧ s.txq.empty = false := by simpa using hsend
        rw [txEdge_of_send l l' hfire he, txSend_of_pending he]; exact ⟨rfl, rfl⟩
      | false => rw [txEdge_of_no_send l l' hsend]; exact ⟨rfl, rfl⟩
    exact ⟨_, stepWith_tx_eq r l l' s, h.txEdge r l l', hsame.1, .inl (.inl hsame.2)⟩
  | rst => exact ⟨_, stepWith_rst_eq s, h.resetStep, rfl, .inr rfl⟩

/-- Settles O58: each edge is a list of updates that keep the invariant, from the state with the choice taken. -/
theorem everyStepKeepsTheInvariant : Obligations.EveryStepKeepsTheInvariant := by
  intro s t h hstep
  obtain ⟨u, hu, hinv, -⟩ := stepWith_goesOn h.takeEnv (takeEnv s).1
  rw [step, hu] at hstep
  cases hstep
  exact hinv

/-- Settles O60: in a good state the page has room for a data byte and the staging cursors are in range, which is all
that an operation can stop for. -/
theorem noStepStopsInTheInvariant : Obligations.NoStepStopsInTheInvariant := by
  intro e s h
  obtain ⟨t, ht, -, hcfg, hphase⟩ := stepWith_goesOn h e
  exact ⟨t, ht, hcfg, by simpa only [PhaseMoves, or_assoc] using hphase⟩

/-- Settles O59: the queues empty, the parser in Init, no request. -/
theorem afterResetTheInvariantHolds : Obligations.AfterResetTheInvariantHolds where
  rxq := AsyncFifo.cleared_inv (Memory.unwritten_wf _)
  txq := AsyncFifo.cleared_inv (Memory.unwritten_wf _)
  stq := ⟨rfl, by decide, by decide, Nat.zero_le _, (Nat.zero_mod _).symm⟩
  parser := .of_low (.of_no_error nofun rfl rfl no_nibble_waiting (Nat.zero_le _) (Memory.unwritten_wf _)) rfl rfl
  arm := ⟨fun hfresh => absurd hfresh Bool.false_ne_true, fun _ hcount => absurd (pointerDiff_self _ 0) hcount⟩

end Sys2Proof.Machine

/-! PROOFS. Every crossing's view catches up (spec/40_bytequeue.md R99). A crossing passes through four stages with respect to a value that its source keeps: at first nothing is known, then no sample can give another value any more, then the first synchroniser stage holds it, then the second. A step keeps the stage, and an edge of the destination leads to the next one; in an execution the destination's clock ticks again and again. -/

namespace Sys2Proof.Machine

theorem sampled_eq_or {α : Type} (cur prev : α) (fresh late : Bool) :
    sampled cur prev fresh late = cur ∨ sampled cur prev fresh late = prev := by
  rw [sampled]; split
  · exact .inr rfl
  · exact .inl rfl

/-- How far a crossing has taken over the value `c`, which its source holds: a sample gives nothing else; the first
stage holds it; the second holds it. -/
def Crossing.View.Caught {α : Type} (c : α) (v : View α) : Nat → Prop
  | 0 => True
  | 1 => v.fresh = true → v.prev = c
  | 2 => (v.fresh = true → v.prev = c) ∧ v.first = c
  | _ => (v.fresh = true → v.prev = c) ∧ v.first = c ∧ v.second = c

/-- A sample that can give nothing else gives the value. -/
theorem sampled_of_caught {α : Type} {c prev : α} {fresh late : Bool} (h : fresh = true → prev = c) :
    sampled c prev fresh late = c := by
  rw [sampled_eq_ite]
  split
  · next hf => exact h hf.1
  · rfl

/-- An edge of the destination takes a crossing one stage further. -/
theorem Crossing.View.Caught.shift {α : Type} {v : View α} (late : Bool) {k : Nat} (h : v.Caught v.cur k) :
    (View.mk v.cur v.prev false (sampled v.cur v.prev v.fresh late) v.first).Caught v.cur (k + 1) := by
  have hlow {p : Prop} : false = true → p := fun hf => absurd hf Bool.false_ne_true
  match k, h with
  | 0, _ => exact hlow
  | 1, h => exact ⟨hlow, sampled_of_caught h⟩
  | 2, ⟨hs, hfirst⟩ => exact ⟨hlow, sampled_of_caught hs, hfirst⟩
  | _ + 3, ⟨hs, hfirst, _⟩ => exact ⟨hlow, sampled_of_caught hs, hfirst⟩

theorem Crossing.View.Caught.of_succ {α : Type} {c : α} {v : View α} {k : Nat} (h : v.Caught c (k + 1)) :
    v.Caught c k := by
  match k, h with
  | 0, _ => trivial
  | 1, ⟨hs, _⟩ => exact hs
  | 2, ⟨hs, hfirst, _⟩ => exact ⟨hs, hfirst⟩
  | _ + 3, h => exact h

/-- A change of the source to the value it has already leaves the stage; so does a reset to it. -/
theorem Crossing.View.Caught.next {α : Type} {dest : Prop} {v v' : View α} {k : Nat} (hn : v.Next dest v')
    (hcur : v'.cur = v.cur) (h : v.Caught v.cur k) : v'.Caught v.cur k ∧ (dest → v'.Caught v.cur (k + 1)) := by
  cases hn with
  | shift hd late => exact ⟨(h.shift late).of_succ, fun _ => h.shift late⟩
  | keep hd => exact ⟨h, fun hdest => absurd hdest hd⟩
  | change hd c =>
    refine ⟨?_, fun hdest => absurd hdest hd⟩
    match k, h with
    | 0, _ => trivial
    | 1, _ => exact fun _ => rfl
    | 2, ⟨_, hfirst⟩ => exact ⟨fun _ => rfl, hfirst⟩
    | _ + 3, ⟨_, hrest⟩ => exact ⟨fun _ => rfl, hrest⟩
  | reset hd z =>
    refine ⟨?_, fun hdest => absurd hdest hd⟩
    have hz : z = v.cur := hcur
    match k with
    | 0 => trivial
    | 1 => exact fun _ => hz
    | 2 => exact ⟨fun _ => hz, hz⟩
    | _ + 3 => exact ⟨fun _ => hz, hz, hz⟩

/-- In an execution a crossing whose source keeps its value reaches every stage for good. -/
theorem Execution.eventually_caught (x : Execution) {α : Type} (view : State → Crossing.View α) (d : Domain)
    (hnext : ∀ e s t, stepWith e s = .next t → (view s).Next (clockOf e = some d) (view t)) {n : Nat} {c : α}
    (hcur : ∀ m, n ≤ m → (view (x.states m)).cur = c) (k : Nat) :
    ∃ j, n ≤ j ∧ ∀ m, j ≤ m → (view (x.states m)).Caught c k := by
  have hstep (k m : Nat) (hm : n ≤ m) (h : (view (x.states m)).Caught c k) :
      (view (x.states (m + 1))).Caught c k ∧
        (clockOf (x.choices m) = some d → (view (x.states (m + 1))).Caught c (k + 1)) := by
    have hm' := hcur m hm
    subst hm'
    exact h.next (hnext _ _ _ (x.steps m)) (hcur (m + 1) (by omega))
  induction k with
  | zero => exact ⟨n, le_rfl, fun _ _ => trivial⟩
  | succ k ih =>
    obtain ⟨j, hj, hcaught⟩ := ih
    obtain ⟨i, hi, htick⟩ := x.fair d j
    refine ⟨i + 1, by omega, fun m hm => ?_⟩
    induction m, hm using Nat.le_induction with
    | base => exact (hstep k i (by omega) (hcaught i hi)).2 htick
    | succ m hm ih => exact (hstep (k + 1) m (by omega) ih).1

/-- The second stage holds a value that the source keeps, from some point on. -/
theorem Execution.eventually_second (x : Execution) {α : Type} (view : State → Crossing.View α) (d : Domain)
    (hnext : ∀ e s t, stepWith e s = .next t → (view s).Next (clockOf e = some d) (view t)) {n : Nat} {c : α}
    (hcur : ∀ m, n ≤ m → (view (x.states m)).cur = c) : ∃ j, ∀ m, j ≤ m → (view (x.states m)).second = c := by
  obtain ⟨j, -, hj⟩ := x.eventually_caught view d hnext hcur 3
  refine ⟨j, fun m hm => ?_⟩
  obtain ⟨-, -, hsecond⟩ := hj m hm
  exact hsecond

/-- Settles O21: each synchroniser shifts its stages, and each crossing of an execution reaches its last stage. -/
theorem viewCatchesUpInThreeEdges : Obligations.ViewCatchesUpInThreeEdges := by
  refine ⟨fun q l1 l2 l3 => ?_, fun s l1 l2 l3 => ?_, fun x n => ⟨?_, ?_, ?_, ?_, ?_⟩⟩
  · exact ⟨sampled_eq_or _ _ _ _, rfl, rfl, sampled_eq_or _ _ _ _, rfl, rfl⟩
  · exact ⟨sampled_eq_or _ _ _ _, rfl, rfl⟩
  · exact x.eventually_second (·.rxq.writeView) .core fun _ _ _ => rxq_writeView_next
  · exact x.eventually_second (·.rxq.readView) .receive fun _ _ _ => rxq_readView_next
  · exact x.eventually_second (·.txq.writeView) .transmit fun _ _ _ => txq_writeView_next
  · exact x.eventually_second (·.txq.readView) .core fun _ _ _ => txq_readView_next
  · exact x.eventually_second (·.tr.armView) .transmit fun _ _ _ => armView_next

end Sys2Proof.Machine

/-! PROOFS. The block between records and at the end of a run (spec/44_page_checksum.md R177, spec/70_reset_and_hazards.md R238). In Init and in Error only a `:` makes the parser touch the page; and in a quiet block each edge finds nothing to do but to move the phase. -/

namespace Sys2Proof.Machine

/-! ### What changes the page between records -/

/-- `CORE.PARSE` does nothing on an empty staging queue and else runs the parser on its oldest byte. -/
theorem coreParse_cases {s t : State} (h : coreParse s = .ok t) :
    (s.stq.cnt = 0 ∧ t = parseNop s) ∨
    (s.stq.cnt ≠ 0 ∧ ∃ u, parserStep s.stagedByte (s.setStq (s.stq.deq s.cfg.stDepth)) = .ok u ∧
      t = u.setPhase .arm) := by
  rw [coreParse] at h
  cases hd : stqDeq s with
  | error _ => rw [hd] at h; cases h
  | ok r =>
    rw [hd] at h
    rcases stqDeq_cases hd with ⟨hcnt, rfl⟩ | ⟨hcnt, -, rfl⟩
    · cases h
      exact .inl ⟨hcnt, rfl⟩
    · dsimp only at h
      split at h
      · cases h
      · next u hparse => cases h; exact .inr ⟨hcnt, u, hparse, rfl⟩

theorem raiseFraming_page (s : State) : (raiseFraming s).page = s.page := enterError_page _ _

theorem errAny_page (b : Byte) (s : State) : (errAny b s).page = s.page := by
  rw [errAny]; split
  · exact diagPush_page b s
  · rfl

/-- In Init a byte other than `:` is skipped or raises Framing (spec/43_parser.md R137, R139). -/
theorem parserStep_of_init_not_colon {b : Byte} {s : State} (hp : s.pstate = .init) (hb : b ≠ 0x3A) :
    parserStep b s = .ok (initSkip s) ∨ parserStep b s = .ok (raiseFraming s) := by
  rw [parserStep, hp, selectPstep_init]
  by_cases hskip : b = 0x0D ∨ b = 0x0A
  · rw [if_pos hskip]; exact .inl rfl
  · rw [if_neg hskip, if_neg hb]; exact .inr rfl

/-- In Init and in Error the parser keeps the page but at the `:` that starts a record. -/
theorem parserStep_page_of_idle {b : Byte} {s t : State} (h : parserStep b s = .ok t)
    (hp : s.pstate = .init ∨ s.pstate = .error) (hpage : t.page ≠ s.page) :
    b = 0x3A ∧ (s.pstate = .error → s.cfg.resyncOnColon = true) := by
  rcases hp with hp | hp
  · refine ⟨?_, fun herr => nomatch hp.symm.trans herr⟩
    by_contra hb
    rcases parserStep_of_init_not_colon hp hb with hstep | hstep <;> cases hstep.symm.trans h
    · exact hpage rfl
    · exact hpage (raiseFraming_page s)
  · by_cases hb : Resyncs b s
    · exact ⟨hb.2, fun _ => hb.1⟩
    · rw [parserStep_error_any hp hb] at h
      cases h
      exact absurd (errAny_page b s) hpage

theorem coreParse_page_of_idle {s t : State} (h : coreParse s = .ok t) (hp : s.pstate = .init ∨ s.pstate = .error)
    (hpage : t.page ≠ s.page) : s.stagedByte = 0x3A ∧ (s.pstate = .error → s.cfg.resyncOnColon = true) := by
  rcases coreParse_cases h with ⟨-, rfl⟩ | ⟨-, u, hparse, rfl⟩
  · exact absurd rfl hpage
  · exact parserStep_page_of_idle (s := s.setStq (s.stq.deq s.cfg.stDepth)) hparse hp hpage

/-- Settles O54: the other domains and the other core operations keep the parser, and `CORE.PARSE` keeps the page but
at a `:`. -/
theorem pageIsHeldUntilTheNextRecord : Obligations.PageIsHeldUntilTheNextRecord := by
  intro e s t hp h hpage
  cases e with
  | rx v d l => exact absurd (stepWith_rx_keepsParser h).page hpage
  | tx r l l' => exact absurd (stepWith_tx_keepsParser h).page hpage
  | rst => exact .inl rfl
  | core clr l l' =>
    cases clr with
    | true => exact .inr (.inl ⟨l, l', rfl⟩)
    | false =>
      obtain ⟨i, rest, u, hf, hu, rfl⟩ := stepWith_cases h
      by_cases hc : ConsumesByte false s
      · rw [fetch_core_of_consumesByte hc] at hf
        cases hf
        have hidle := coreParse_page_of_idle (toOut_eq_next hu) hp hpage
        exact .inr (.inr ⟨⟨l, l', rfl⟩, hc.2.1, hc.2.2, hidle⟩)
      · exact absurd (core_operation_keepsParser (fetch_core_of_not_consumesByte hc hf) hu).page hpage

/-! ### The end of a run -/

section
variable {aw : Nat} {q : AsyncFifo}

theorem AsyncFifo.syncWrite_of_settled (late : Bool) (h : q.Settled) (hf : q.rgrayFresh = false) :
    q.syncWrite late = q := by
  obtain ⟨hr2, hr1, -, -⟩ := h
  cases q
  simp_all [AsyncFifo.syncWrite, sampled]

theorem AsyncFifo.syncRead_of_settled (late : Bool) (h : q.Settled) (hf : q.wgrayFresh = false) :
    q.syncRead late = q := by
  obtain ⟨-, -, hw2, hw1⟩ := h
  cases q
  simp_all [AsyncFifo.syncRead, sampled]

/-- With the views at their truth an empty queue looks empty to its reader. -/
theorem AsyncFifo.empty_of_settled (hq : q.Coded aw) (hs : q.Settled) (hc : q.trueCount aw = 0) : q.empty = true := by
  obtain ⟨hw, hr, -, -, -, -, hwg, hrg⟩ := hq
  have hsame : q.wbin = q.rbin := (pointerDiff_eq_zero hw hr).mp hc
  rw [AsyncFifo.empty, hs.2.2.1, hwg, hrg, hsame, beq_self_eq_true]

/-- And to its writer. -/
theorem AsyncFifo.wrCount_of_settled (hq : q.Coded aw) (hs : q.Settled) (hc : q.trueCount aw = 0) :
    q.wrCount aw = 0 := by
  obtain ⟨-, hr, -, -, -, -, -, hrg⟩ := hq
  rw [AsyncFifo.wrCount, hs.1, hrg, gray2bin_bin2gray _ _ hr]
  exact hc

end

/-- Nothing is under way and nothing can still be sampled: what an idle edge needs to find nothing to do. -/
structure Resting (s : State) : Prop where
  rxq : s.rxq.Coded s.cfg.rxAw
  txq : s.txq.Coded s.cfg.txAw
  quiet : s.Quiet
  notFresh : s.NothingFresh

theorem Resting.setPhase {s : State} (h : Resting s) (p : Phase) : Resting (s.setPhase p) :=
  ⟨h.rxq, h.txq, h.quiet, h.notFresh⟩

/-- The phase after an idle edge. -/
def idlePhase (e : EnvStep) (p : Phase) : Phase :=
  match e with
  | .core _ _ _ => (match p with | .pump => .parse | .parse => .arm | .arm => .pump)
  | .rx _ _ _ => p
  | .tx _ _ _ => p
  | .rst => p

theorem State.setCommitValid_same {s : State} {b : Bool} (h : s.commitValid = b) : s.setCommitValid b = s := by
  subst h; rfl

theorem State.setEofValid_same {s : State} {b : Bool} (h : s.eofValid = b) : s.setEofValid b = s := by
  subst h; rfl

section
variable {s : State} (h : Resting s)
include h

theorem Resting.aqSync (side : Side) (late : Bool) : aqSync side late s = s := by
  obtain ⟨-, -, -, hrx, htx, -⟩ := h.quiet
  obtain ⟨hrxw, hrxr, htxw, htxr, -⟩ := h.notFresh
  cases side with
  | rxqWrite => exact congrArg s.setRxq (AsyncFifo.syncWrite_of_settled late hrx hrxr)
  | rxqRead => exact congrArg s.setRxq (AsyncFifo.syncRead_of_settled late hrx hrxw)
  | txqWrite => exact congrArg s.setTxq (AsyncFifo.syncWrite_of_settled late htx htxr)
  | txqRead => exact congrArg s.setTxq (AsyncFifo.syncRead_of_settled late htx htxw)

theorem Resting.coreSync (lateRx lateTx : Bool) : coreSync lateRx lateTx s = s := by
  rw [Machine.coreSync, h.aqSync, h.aqSync]

theorem Resting.clearPulses : clearPulses s = s := by
  obtain ⟨-, -, -, -, -, -, -, -, -, -, hc, he⟩ := h.quiet
  rw [Machine.clearPulses, State.setCommitValid_same hc, State.setEofValid_same he]

/-- With no request and no byte the transmitter stays parked. -/
theorem Resting.txEdge (ready lateTx lateArm : Bool) : txEdge ready lateTx lateArm s = s := by
  obtain ⟨-, -, -, -, -, hreq, hq1, hq2, hie, hvalid, -, -⟩ := h.quiet
  obtain ⟨-, -, -, -, hfresh⟩ := h.notFresh
  have henable : (if s.tr.armQ2 then true else if ready && s.tr.txIe && s.txq.empty then false else s.tr.txIe) =
      s.tr.txIe := by simp [hq2, hie]
  have hsync : armSync lateArm s = s := by
    refine congrArg s.setTr (?_ : _ = s.tr)
    cases htr : s.tr
    simp_all [sampled]
  rw [txEdge_of_no_send lateTx lateArm (by simp [hie]), henable, ← hvalid]
  change armSync lateArm (Machine.aqSync .txqRead lateTx s) = s
  rw [h.aqSync, hsync]

theorem Resting.armRequest : armRequest s = s := by
  obtain ⟨-, -, hcount, -, hsettled, hreq, -⟩ := h.quiet
  have hview := AsyncFifo.wrCount_of_settled h.txq hsettled hcount
  rw [Machine.armRequest]
  exact if_pos (by simp [hview, hreq])

/-- The operation of each phase finds nothing to do. -/
theorem Resting.coreOperation (l l' : Bool) :
    coreOperation false s = .ok (s.setPhase (idlePhase (.core false l l') s.phase)) := by
  obtain ⟨hrx, hstq, -, hsettled, -⟩ := h.quiet
  rw [Machine.coreOperation, if_neg Bool.false_ne_true]
  cases hp : s.phase with
  | pump => exact if_pos (AsyncFifo.empty_of_settled h.rxq hsettled hrx)
  | parse => exact if_pos (by simp [State.stqEmpty, hstq])
  | arm => exact congrArg (fun u => Except.ok (u.setPhase .pump)) h.armRequest

theorem Resting.stepWith {e : EnvStep} (he : isIdleInput e = true) :
    stepWith e s = .next (s.setPhase (idlePhase e s.phase)) := by
  cases e with
  | rx v d l =>
    obtain rfl : v = false := by simpa [isIdleInput] using he
    rw [stepWith_rx_eq, rxEdge_not_valid]
    exact congrArg Host.Outcome.next (h.aqSync .rxqWrite l)
  | tx r l l' =>
    rw [stepWith_tx_eq, h.txEdge]
    rfl
  | rst => cases he
  | core clr l l' =>
    obtain rfl : clr = false := by simpa [isIdleInput] using he
    rw [stepWith_core_eq, exec_coreEdge, h.clearPulses, exec_coreInstr, h.coreOperation l l']
    exact congrArg Host.Outcome.next ((h.setPhase _).coreSync l l')

end

/-- After a resting state of an execution, idle edges change the phase only. -/
theorem Execution.resting_from {x : Execution} {n : Nat} (h : Resting (x.states n))
    (hidle : ∀ m, n ≤ m → isIdleInput (x.choices m) = true) :
    ∀ m, n ≤ m → ∃ p : Phase, x.states m = (x.states n).setPhase p := by
  intro m hm
  induction m, hm using Nat.le_induction with
  | base => exact ⟨(x.states n).phase, rfl⟩
  | succ m hm ih =>
    obtain ⟨p, hp⟩ := ih
    have hstep := x.steps m
    rw [hp, (h.setPhase p).stepWith (hidle m hm)] at hstep
    exact ⟨_, (Host.Outcome.next.inj hstep).symm⟩

/-- Settles O55: a quiet state of the invariant with no sample pending rests, and so does every state after it. -/
theorem finishedRunOnlyCyclesThePhase : Obligations.FinishedRunOnlyCyclesThePhase := by
  constructor
  · intro e s hinv hquiet hfresh hidle
    rw [(Resting.mk hinv.rxq.coded hinv.txq.coded hquiet hfresh).stepWith hidle]
    cases e <;> rfl
  · intro x input n hends hinv hfresh hidle m hm
    obtain ⟨hover, -⟩ := hends
    have hrest : Resting (x.states n) := ⟨hinv.rxq.coded, hinv.txq.coded, hover.atRest.1, hfresh⟩
    exact ⟨(x.offered_eq_of_noneLater hover.noneLater m hm).trans hover.allOffered, x.resting_from hrest hidle m hm⟩

end Sys2Proof.Machine

/-! PROOFS. The ends of the records that carry no data (spec/43_parser.md R146, R147, R154): an End-Of-File record drains two bytes whatever they are, and a record of an unsupported type ends at its type byte. -/

namespace Sys2Proof.Machine

theorem parserStep_of_endState (b : Byte) {s : State} (hp : s.pstate = .endState) :
    parserStep b s = .ok (endAny s) := by
  rw [parserStep, hp]; rfl

/-- The first drained byte is only counted. -/
theorem endAny_first_inRecord (s : State) {p : PendingRecord} (c : Byte) (g : Page) (h : p.ckRem = 2) :
    endAny (s.inRecord .endState p c g) = s.inRecord .endState { p with ckRem := 1 } c g := by
  have hfirst : ¬ (s.inRecord .endState p c g).pend.ckRem = 1 := by simp [State.inRecord, h]
  rw [endAny, if_neg hfirst]
  simp [State.inRecord, State.setPend, State.setPstate, h]

/-- The header and the type byte of a record, whatever type it is. -/
theorem readsBytes_upToType (s : State) (n ah al ty : Byte) :
    ReadsBytes [n, ah, al, ty] (initStart s)
      (recordKind ty (s.inRecord .recordType (.between 0 0 0 ty n ty) (n + ah + al + ty)
        ⟨ah ++ al, 0, Memory.cleared⟩)) :=
  (readsBytes_header s n ah al).trans (readsBytes_recordType s _ _ _ _ ty)

theorem recordKind_eof_inRecord (s : State) (st : PState) (p : PendingRecord) (c : Byte) (g : Page) :
    recordKind 0x01 (s.inRecord st p c g) = s.inRecord .endState p c g := rfl

/-- After the type byte 01 any two bytes end the file. -/
theorem parseText_eofRecord {s : State} {text : List Byte} {n ah al : Byte} (x y : Byte) (hp : s.pstate = .init)
    (htext : hexBytes text = some [n, ah, al, 0x01]) :
    ∃ p : PendingRecord, parseText (0x3A :: text ++ [x, y]) s =
      .next (endFile (diagPush s.cfg.diagEof
        (s.inRecord .endState p (n + ah + al + 0x01) ⟨ah ++ al, 0, Memory.cleared⟩))) := by
  refine ⟨{ PendingRecord.between 0 0 0 0x01 n 0x01 with ckRem := 1 }, ?_⟩
  rw [List.cons_append, parseText_cons_of_ok (parserStep_colon_of_init hp), readsBytes_upToType s n ah al 0x01 text htext,
    recordKind_eof_inRecord, parseText_cons_of_ok (parserStep_of_endState x rfl),
    endAny_first_inRecord s _ _ rfl,
    parseText_cons_of_ok (parserStep_of_endState y rfl), endAny_of_last rfl, parseText_nil]
  rfl

/-- A type other than 00 and 01 ends the record at once. -/
theorem parseText_unsupportedRecord {s : State} {text : List Byte} {n ah al ty : Byte} (hp : s.pstate = .init)
    (htext : hexBytes text = some [n, ah, al, ty]) (h0 : ty ≠ 0x00) (h1 : ty ≠ 0x01) :
    parseText (0x3A :: text) s = .next (enterError .recType
      (s.inRecord .recordType (.between 0 0 0 ty n ty) (n + ah + al + ty) ⟨ah ++ al, 0, Memory.cleared⟩)) := by
  rw [(readsBytes_upToType s n ah al ty).parse_record hp htext, recordKind, if_neg h0, if_neg h1]
  rfl

/-- Settles O57: the diagnostic is pushed from a state with the queue and the trace of the start. -/
theorem recordTypeDecidesHowTheRecordEnds : Obligations.RecordTypeDecidesHowTheRecordEnds := by
  intro s text n ah al ty x y hp htext
  constructor
  · rintro rfl
    obtain ⟨p, hend⟩ := parseText_eofRecord x y hp htext
    generalize hu : s.inRecord .endState p (n + ah + al + 0x01) ⟨ah ++ al, 0, Memory.cleared⟩ = u at hend
    have hpage : (diagPush s.cfg.diagEof u).page = ⟨ah ++ al, 0, Memory.cleared⟩ := by rw [diagPush_page, ← hu]; rfl
    obtain ⟨htrace, htxq⟩ := diagPush_trace_txq_congr s.cfg.diagEof (s := u) (t := s) (hu ▸ rfl) (hu ▸ rfl) (hu ▸ rfl)
    refine ⟨_, hend, rfl, rfl, ?_, ?_, ?_, congrArg Page.addr hpage, congrArg Page.len hpage,
      congrArg (Event.eof :: ·) htrace, htxq⟩
    · exact (diagPush_commitValid _ _).trans (hu ▸ rfl)
    · exact (diagPush_errCause _ _).trans (hu ▸ rfl)
    · exact (diagPush_cksum _ _).trans (hu ▸ rfl)
  · intro h0 h1
    obtain ⟨htrace, htxq⟩ := enterError_trace_txq .recType (t := s) (s := s.inRecord .recordType (.between 0 0 0 ty n ty)
      (n + ah + al + ty) ⟨ah ++ al, 0, Memory.cleared⟩) rfl rfl rfl
    refine ⟨_, parseText_unsupportedRecord hp htext h0 h1, enterError_pstate _ _, enterError_errCause _ _, ?_,
      enterError_commitValid _ _, htrace, htxq⟩
    rw [enterError_pend]; rfl

end Sys2Proof.Machine

/-! PROOFS. The rows of the parser and its helpers as whole next states (spec/43_parser.md, spec/44_page_checksum.md, spec/60_exceptions.md). A row given a byte of its class is the operation itself; the operation is written out by the nibble phase and, where it has one, by its own condition. -/

namespace Sys2Proof.Machine

/-! ### The nibble decoder and the helpers (spec/43_parser.md R130 to R135) -/

theorem setWidth_sub_eq_ofNat {b : Byte} {k : Nat} (hk : k < 256) (h : k ≤ b.toNat) :
    (b - BitVec.ofNat 8 k).setWidth 4 = BitVec.ofNat 4 (b.toNat - k) := by
  apply BitVec.eq_of_toNat_eq
  have := b.isLt
  simp only [BitVec.toNat_setWidth, BitVec.toNat_sub, BitVec.toNat_ofNat]
  omega

/-- The decoder over the numbers of the three ranges. -/
theorem hexDecode_eq (b : Byte) : hexDecode b =
    if 48 ≤ b.toNat ∧ b.toNat ≤ 57 then (true, BitVec.ofNat 4 (b.toNat - 48))
    else if 65 ≤ b.toNat ∧ b.toNat ≤ 70 then (true, BitVec.ofNat 4 (b.toNat - 55))
    else if 97 ≤ b.toNat ∧ b.toNat ≤ 102 then (true, BitVec.ofNat 4 (b.toNat - 87))
    else (false, 0xF) := by
  have hle (k : Nat) (hk : k < 256) : BitVec.ofNat 8 k ≤ b ↔ k ≤ b.toNat := by
    rw [BitVec.le_def, BitVec.toNat_ofNat, Nat.mod_eq_of_lt hk]
  have hge (k : Nat) (hk : k < 256) : b ≤ BitVec.ofNat 8 k ↔ b.toNat ≤ k := by
    rw [BitVec.le_def, BitVec.toNat_ofNat, Nat.mod_eq_of_lt hk]
  have h0 : 0x30 ≤ b ∧ b ≤ 0x39 ↔ 48 ≤ b.toNat ∧ b.toNat ≤ 57 := and_congr (hle 48 (by decide)) (hge 57 (by decide))
  have h1 : 0x41 ≤ b ∧ b ≤ 0x46 ↔ 65 ≤ b.toNat ∧ b.toNat ≤ 70 := and_congr (hle 65 (by decide)) (hge 70 (by decide))
  have h2 : 0x61 ≤ b ∧ b ≤ 0x66 ↔ 97 ≤ b.toNat ∧ b.toNat ≤ 102 := and_congr (hle 97 (by decide)) (hge 102 (by decide))
  rw [hexDecode]
  refine ite_congr (propext h0) (fun h => ?_) fun _ => ite_congr (propext h1) (fun h => ?_) fun _ =>
    ite_congr (propext h2) (fun h => ?_) fun _ => rfl
  · exact congrArg (true, ·) (setWidth_sub_eq_ofNat (by decide) h.1)
  · exact congrArg (true, ·) (setWidth_sub_eq_ofNat (by decide) (le_trans (by decide) h.1))
  · exact congrArg (true, ·) (setWidth_sub_eq_ofNat (by decide) (le_trans (by decide) h.1))

theorem hexResult_eq_sentinel_iff (b : Byte) : hexResult b = 0xFF ↔ (hexDecode b).1 = false := by
  revert b; decide +kernel

/-- Settles O1: the decoder by its ranges; the sentinel's high half is written exactly outside them. -/
theorem hexDecodeGivesNibbleOrSentinel : Obligations.HexDecodeGivesNibbleOrSentinel := by
  rintro s b n rfl
  rw [hexResult_eq_sentinel_iff]
  change Host.Outcome.next (s.setRet (.decoded (hexDecode b).1 (hexDecode b).2)) = _ ∧ _
  rw [hexDecode_eq]
  by_cases h0 : 48 ≤ b.toNat ∧ b.toNat ≤ 57
  · simp only [if_pos h0]
    exact ⟨rfl, by simp [h0]⟩
  · by_cases h1 : 65 ≤ b.toNat ∧ b.toNat ≤ 70
    · simp only [if_neg h0, if_pos h1]
      exact ⟨rfl, by simp [h1]⟩
    · by_cases h2 : 97 ≤ b.toNat ∧ b.toNat ≤ 102
      · simp only [if_neg h0, if_neg h1, if_pos h2]
        exact ⟨rfl, by simp [h2]⟩
      · simp only [if_neg h0, if_neg h1, if_neg h2]
        exact ⟨rfl, iff_of_true trivial ⟨h0, h1, h2⟩⟩

theorem exec_takeNibble (v : Nibble) (s : State) :
    exec (.takeNibble v) s = .next ((s.setPend (takeNibble v s.pend).2).setRet (.taken (takeNibble v s.pend).1)) := rfl

/-- Settles O2: the nibble phase decides. -/
theorem takeNibbleAssemblesHighThenLow : Obligations.TakeNibbleAssemblesHighThenLow := by
  intro s v
  constructor
  · intro h
    rw [exec_takeNibble, takeNibble_high h]; rfl
  · intro h
    rw [exec_takeNibble, takeNibble_low h]; rfl

theorem startRecord_eq (s : State) : startRecord s = { s with
    pend := PendingRecord.initial
    page := ⟨0x0000, 0, Memory.cleared⟩
    cksum := 0x00
    errCause := none } := by
  simp only [startRecord, cksumClear, beginPage, resetPending, State.setErrCause, State.setCksum, State.setPage,
    State.setPend]

/-- Settles O3: the page that is begun is the cleared one. -/
theorem startOfRecordHelpersWriteTheirRegisters : Obligations.StartOfRecordHelpersWriteTheirRegisters :=
  fun s => ⟨rfl, Memory.cleared, Memory.read_cleared _, rfl, congrArg Host.Outcome.next (startRecord_eq s)⟩

/-! ### The rows with a byte of their class -/

section
variable {b : Byte} (s : State)

theorem exec_pBcNib (h : isHex b = true) : exec (.pBcNib b) s = .next (bcNib (nibbleOf b) s) :=
  guarded_of_ok _ ((hexDecode_valid_eq_isHex b).trans h) _

theorem exec_pAddrNib (h : isHex b = true) : exec (.pAddrNib b) s = .next (addrNib (nibbleOf b) s) :=
  guarded_of_ok _ ((hexDecode_valid_eq_isHex b).trans h) _

theorem exec_pRtNib (h : isHex b = true) : exec (.pRtNib b) s = .next (rtNib (nibbleOf b) s) :=
  guarded_of_ok _ ((hexDecode_valid_eq_isHex b).trans h) _

theorem exec_pDataNib (h : isHex b = true) : exec (.pDataNib b) s = toOut (dataNib (nibbleOf b) s) :=
  guarded_of_ok _ ((hexDecode_valid_eq_isHex b).trans h) _

theorem exec_pCkNib (h : isHex b = true) : exec (.pCkNib b) s = .next (ckNib (nibbleOf b) s) :=
  guarded_of_ok _ ((hexDecode_valid_eq_isHex b).trans h) _

/-- The five `BAD` rows of a hex field on a byte that is no digit. -/
theorem exec_bad (h : isHex b = false) :
    exec (.pBcBad b) s = .next (raiseFraming s) ∧ exec (.pAddrBad b) s = .next (raiseFraming s) ∧
    exec (.pRtBad b) s = .next (raiseFraming s) ∧ exec (.pDataBad b) s = .next (raiseFraming s) ∧
    exec (.pCkBad b) s = .next (raiseFraming s) := by
  have hok : (!(hexDecode b).1) = true := by rw [hexDecode_valid_eq_isHex, h]; rfl
  exact ⟨guarded_of_ok _ hok _, guarded_of_ok _ hok _, guarded_of_ok _ hok _, guarded_of_ok _ hok _,
    guarded_of_ok _ hok _⟩

end

/-- Settles O4: the three rows of Init. -/
theorem initRowsSkipStartOrRaiseFraming : Obligations.InitRowsSkipStartOrRaiseFraming := by
  intro s b
  refine ⟨fun hskip => ?_, ⟨Memory.cleared, Memory.read_cleared _, ?_⟩, fun ⟨hcolon, hcr, hlf⟩ => ?_⟩
  · exact guarded_of_ok _ (by simpa using hskip) _
  · exact congrArg Host.Outcome.next (initStart_eq_inRecord s)
  · exact guarded_of_ok _ (by simpa using And.intro (And.intro hcolon hcr) hlf) _

/-- Settles O5: the length, nibble by nibble. -/
theorem byteCountRowsDecodeTheLength : Obligations.ByteCountRowsDecodeTheLength := by
  intro s b
  refine ⟨fun hb hn => ?_, fun hb hn y hy => ?_, fun hb => (exec_bad s hb).1⟩
  · rw [exec_pBcNib s hb, bcNib_high _ hn]
  · rw [exec_pBcNib s hb, bcNib_low _ hn hy.symm]

/-- A low nibble at any other count binds nothing (log 20). -/
theorem addrNib_low_other (v : Nibble) {s : State} (h : s.pend.nibPhase = true) (h3 : s.pend.addrRem ≠ 3)
    (h1 : s.pend.addrRem ≠ 1) {y : Byte} (hy : s.pend.acc.extractLsb' 4 4 ++ v = y) :
    addrNib v s = { s with
      pend := { s.pend with addrRem := s.pend.addrRem - 1, acc := y, nibPhase := false }
      cksum := s.cksum + y } := by
  rw [addrNib, takeNibble_low h, hy]
  dsimp only
  rw [if_neg h3, if_neg h1]
  rfl

/-- Settles O6: the address, nibble by nibble. -/
theorem addressRowsBindBigEndianAddress : Obligations.AddressRowsBindBigEndianAddress := by
  intro s b
  refine ⟨fun hb hn => ?_, fun hb hn y hy => ⟨fun h3 => ?_, fun h1 => ?_, fun h3 h1 => ?_⟩,
    fun hb => (exec_bad s hb).2.1⟩ <;> rw [exec_pAddrNib s hb]
  · rw [addrNib_high _ hn]
  · rw [addrNib_low_first _ hn h3 hy.symm]
  · rw [addrNib_low_second _ hn h1 hy.symm]
  · rw [addrNib_low_other _ hn h3 h1 hy.symm]

theorem recordKind_eof (u : State) : recordKind 0x01 u = { u with pstate := .endState } := rfl

theorem recordKind_unsupported (u : State) {t : Byte} (h0 : t ≠ 0x00) (h1 : t ≠ 0x01) :
    recordKind t u = diagPush u.cfg.diagRectype { u with pstate := .error, errCause := some .recType } := by
  rw [recordKind, if_neg h0, if_neg h1]; rfl

/-- Settles O7: the type, nibble by nibble, and then the kind of the record. -/
theorem recordTypeRowsChooseTheKind : Obligations.RecordTypeRowsChooseTheKind := by
  intro s b
  refine ⟨fun hb hn => ?_, fun hb hn t u ht hu => ?_, fun hb => (exec_bad s hb).2.2.1⟩
  · rw [exec_pRtNib s hb, rtNib_high _ hn]
  · rw [exec_pRtNib s hb, rtNib_low _ hn ht.symm, ← hu]
    have hcfg : u.cfg = s.cfg := by rw [hu]
    have hlen : u.pend.recLen = s.pend.recLen := by rw [hu]
    refine ⟨fun h0 => ?_, fun h1 => ?_, fun h0 h1 => ?_⟩
    · rw [h0, recordKind_data, hlen]
    · rw [h1, recordKind_eof]
    · rw [recordKind_unsupported u h0 h1, hcfg]

/-- Settles O8: the three kinds. -/
theorem recordKindsSetTheNextState : Obligations.RecordKindsSetTheNextState := by
  intro s t
  have hdata : exec .recData s = .next { s with pstate := if s.pend.recLen = 0x00 then .checksum else .data } := rfl
  refine ⟨fun h => by rw [hdata, if_pos h], fun h => by rw [hdata, if_neg h], rfl, fun h => ?_, fun h => ?_⟩
  · exact guarded_of_ok _ (by simpa using h) _
  · rcases h with rfl | rfl <;> rfl

/-- What an array reads after a store: the byte at its index, and elsewhere what it read before. -/
theorem Memory.read_write {size : Nat} (id : ArrayId) {m : Memory} (h : m.wf size = true) (a : Nat) (b : Byte) :
    ∀ i, (m.write a b).read id i = if i = a then b else m.read id i := by
  intro i
  split
  · next hi => rw [hi, Memory.read_write_same id m a b h]
  · next hi => rw [Memory.read_write_other id m b hi]

theorem appendByte_of_full {s : State} (y : Byte) (h : s.cfg.pageSize ≤ s.page.len) :
    appendByte y s = .error .pageIndexOutOfRange := if_neg (Nat.not_lt.mpr h)

theorem dataNib_of_full (v : Nibble) {s : State} (hn : s.pend.nibPhase = true) (h : s.cfg.pageSize ≤ s.page.len) :
    dataNib v s = .error .pageIndexOutOfRange := by
  rw [dataNib, takeNibble_low hn]
  dsimp only
  rw [appendByte_of_full]
  exact h

/-- Settles O9: a data byte, nibble by nibble. -/
theorem dataRowsAppendToThePage : Obligations.DataRowsAppendToThePage := by
  intro s b
  refine ⟨fun hb hn => ?_, fun hb hn hroom hwf y hy => ?_, fun hb hn hfull => ?_, fun hb => (exec_bad s hb).2.2.2.1⟩
  · rw [exec_pDataNib s hb, dataNib_high _ hn]; rfl
  · refine ⟨_, Memory.read_write .pgData hwf s.page.len y, ?_⟩
    rw [exec_pDataNib s hb, dataNib_low _ hn hroom hy.symm, Config.mod_pgLw hroom]; rfl
  · rw [exec_pDataNib s hb, dataNib_of_full _ hn hfull]; rfl

/-- Settles O10: the checksum, nibble by nibble, and then the end that the sum decides. -/
theorem checksumRowsCommitOrRaise : Obligations.ChecksumRowsCommitOrRaise := by
  intro s b
  refine ⟨fun hb hn => ?_, fun hb hn y hy => ⟨fun hsum => ?_, fun hsum => ?_⟩, fun hb => (exec_bad s hb).2.2.2.2⟩
  · rw [exec_pCkNib s hb, ckNib_high _ hn]
  · rw [exec_pCkNib s hb, ckNib_low _ hn hy.symm, closeRecord_of_zero hsum, checksumGood_eq, hsum]; rfl
  · rw [exec_pCkNib s hb, ckNib_low _ hn hy.symm, closeRecord_of_ne_zero hsum]; rfl

/-- A diagnostic writes `txq` and the trace. -/
theorem diagPush_eq (b : Byte) (s : State) :
    diagPush b s = { s with txq := (diagPush b s).txq, trace := (diagPush b s).trace } := by
  rcases diagPush_cases b s with ⟨-, h⟩ | ⟨-, h⟩ <;> rw [h] <;> rfl

/-- Settles O11: the first drained byte is counted, the second ends the file. -/
theorem endRowDrainsTwoBytes : Obligations.EndRowDrainsTwoBytes := by
  intro s b
  refine ⟨fun hfirst => ?_, fun hlast => ?_⟩
  · exact congrArg Host.Outcome.next (if_neg hfirst)
  · refine congrArg Host.Outcome.next ((endAny_of_last hlast).trans ?_)
    rw [diagPush_eq]
    rfl

theorem diagPush_setPstate (b : Byte) (s : State) (p : PState) :
    (diagPush b s).setPstate p = diagPush b (s.setPstate p) := by
  rcases diagPush_cases b s with ⟨hfull, h⟩ | ⟨hroom, h⟩
  · obtain ⟨-, h'⟩ := (diagPush_cases b (s.setPstate p)).resolve_right (by simp [hfull])
    rw [h, h']; rfl
  · obtain ⟨-, h'⟩ := (diagPush_cases b (s.setPstate p)).resolve_left (by simp [hroom])
    rw [h, h']; rfl

theorem exec_pErrAny {b : Byte} {s : State} (h : s.cfg.resyncOnColon = false ∨ b ≠ 0x3A) :
    exec (.pErrAny b) s = .next (errAny b s) := by
  exact guarded_of_ok _ (by simpa using h) _

/-- Settles O12: the rows of Error, each where the configuration has it. -/
theorem errorRowsEchoOrResynchronise : Obligations.ErrorRowsEchoOrResynchronise := by
  intro s b
  refine ⟨fun hrow hecho => ?_, fun hrow hecho => ?_, fun hr => ?_, fun hr => ?_, fun hr => ?_⟩
  · rw [exec_pErrAny hrow, errAny, hecho]; rfl
  · rw [exec_pErrAny hrow, errAny, hecho, if_pos rfl, diagPush_setPstate]; rfl
  · refine ⟨Memory.cleared, Memory.read_cleared _, (guarded_of_ok _ hr _).trans ?_⟩
    exact congrArg Host.Outcome.next (initStart_eq_inRecord s)
  · exact if_neg (by simp [hr])
  · exact if_neg (by simp [hr])

/-! ### Page, checksum, diagnostics (spec/44_page_checksum.md, spec/60_exceptions.md) -/

/-- Settles O33: addition of bytes is addition modulo 256. -/
theorem checksumAccumulatorAddsModulo256 : Obligations.ChecksumAccumulatorAddsModulo256 := by
  intro s y
  have hsum : s.cksum + y = BitVec.ofNat 8 ((s.cksum.toNat + y.toNat) % 256) := by
    apply BitVec.eq_of_toNat_eq
    simp [BitVec.toNat_add]
  refine ⟨rfl, ?_⟩
  rw [← hsum]; rfl

/-- Settles O34: an append stores at `pg_len`, a commit takes a snapshot. -/
theorem pageAppendStoresAndCommitPulses : Obligations.PageAppendStoresAndCommitPulses := by
  intro s y
  refine ⟨fun hroom hwf => ⟨_, Memory.read_write .pgData hwf s.page.len y, ?_⟩, fun hfull => ?_, rfl⟩
  · exact congrArg toOut (appendByte_of_room y hroom)
  · exact congrArg toOut (appendByte_of_full y hfull)

/-- Settles O35: the push or the drop of one byte. -/
theorem diagnosticIsPushedOrDropped : Obligations.DiagnosticIsPushedOrDropped := by
  intro s b
  rcases diagPush_cases b s with ⟨hfull, h⟩ | ⟨hroom, h⟩
  · exact ⟨fun _ => congrArg Host.Outcome.next h, fun hroom => absurd hroom (by simp [hfull])⟩
  · refine ⟨fun hfull => absurd hfull (by simp [hroom]), fun _ hwf => ?_⟩
    exact ⟨_, Memory.read_write .txqMem hwf _ b, congrArg Host.Outcome.next h⟩

/-- Settles O36: the entry into Error is the cause's diagnostic on the state with the cause noted. -/
theorem enterErrorRecordsTheCause : Obligations.EnterErrorRecordsTheCause := by
  refine fun s => ⟨rfl, rfl, rfl, fun c => ⟨enterError c s, rfl, diagPush_eq _ _, ?_⟩⟩
  rw [errCauseO, enterError_errCause]
  cases c <;> rfl

end Sys2Proof.Machine

/-! PROOFS. The queue primitives and the operations of the edges as whole next states (spec/40_bytequeue.md, spec/41_transport.md, spec/42_relay.md, spec/70_reset_and_hazards.md). -/

namespace Sys2Proof.Machine

/-! ### The staging queue (spec/40_bytequeue.md R82 to R84) -/

theorem stqEnq_of_bad_cursor (b : Byte) {s : State} (hc : s.stq.cnt ≠ s.cfg.stDepth) (hi : s.cfg.stDepth ≤ s.stq.inp) :
    stqEnq b s = .error .stagingIndexOutOfRange := by
  simp [stqEnq, State.stqFull, hc, Nat.not_lt.mpr hi]

theorem stqDeq_of_bad_cursor {s : State} (hc : s.stq.cnt ≠ 0) (ho : s.cfg.stDepth ≤ s.stq.out) :
    stqDeq s = .error .stagingIndexOutOfRange := by
  simp [stqDeq, State.stqEmpty, hc, Nat.not_lt.mpr ho]

/-- Settles O14: drop, store, or the model's fault. -/
theorem stagingEnqueueStoresOrDrops : Obligations.StagingEnqueueStoresOrDrops := by
  intro s b
  refine ⟨fun hfull => ?_, fun hroom hi hwf => ⟨_, Memory.read_write .stqMem hwf s.stq.inp b, ?_⟩, fun hc hi => ?_⟩
  · exact exec_stqEnq (stqEnq_of_full b hfull)
  · exact exec_stqEnq (stqEnq_of_room b hroom hi)
  · exact congrArg (fun r => toOut (r.map (returning .accepted))) (stqEnq_of_bad_cursor b hc hi)

/-- Settles O15: nothing, the byte at the cursor, or the model's fault. -/
theorem stagingDequeueTakesTheOldest : Obligations.StagingDequeueTakesTheOldest := by
  intro s
  refine ⟨fun hempty => ?_, fun hc ho => ?_, fun hc ho => ?_, rfl⟩
  · exact exec_stqDeq (stqDeq_of_empty hempty)
  · exact exec_stqDeq (stqDeq_of_staged hc ho)
  · exact congrArg (fun r => toOut (r.map (returning .dequeued))) (stqDeq_of_bad_cursor hc ho)

/-! ### The asynchronous FIFOs (spec/40_bytequeue.md R90 to R96) -/

/-- Settles O16: drop on a full view, store otherwise. -/
theorem fifoPushStoresOrDrops : Obligations.FifoPushStoresOrDrops := by
  rintro s q b f rfl
  rw [exec_aqPush]
  rcases aqPush_cases q b s with ⟨hfull, h⟩ | ⟨hroom, h⟩ <;> rw [h]
  · exact ⟨fun _ => rfl, fun hne => absurd (beq_iff_eq.mp hfull) hne⟩
  · exact ⟨fun heq => absurd heq (by simpa [AsyncFifo.full, fullMask] using hroom),
      fun _ hwf => ⟨_, Memory.read_write _ hwf _ b, rfl⟩⟩

/-- Settles O17: nothing on an empty view, the byte at the cursor otherwise. -/
theorem fifoPopTakesTheByteAtTheCursor : Obligations.FifoPopTakesTheByteAtTheCursor := by
  rintro s q f rfl
  rw [exec_aqPop]
  rcases aqPop_cases q s with ⟨hempty, h⟩ | ⟨hbyte, h⟩ <;> rw [h]
  · exact ⟨fun _ => rfl, fun hne => absurd (beq_iff_eq.mp hempty) hne⟩
  · exact ⟨fun heq => absurd heq (by simpa [AsyncFifo.empty] using hbyte), fun _ => rfl⟩

/-- A pointer difference is the difference of the integers modulo a turn. -/
theorem pointerDiff_eq_emod (pw a b : Nat) : pointerDiff pw a b = (((a : Int) - b) % 2 ^ pw).toNat := by
  have hpos := Nat.two_pow_pos pw
  have hlt := Nat.mod_lt b hpos
  have hdiv := Nat.div_add_mod b (2 ^ pw)
  have hint : ((a + (2 ^ pw - b % 2 ^ pw) : Nat) : Int) = (a : Int) - b + 2 ^ pw * ((b / 2 ^ pw : Nat) + 1) := by
    rw [Nat.cast_add, Nat.cast_sub hlt.le]
    have hcast : (b : Int) = 2 ^ pw * ((b / 2 ^ pw : Nat) : Int) + ((b % 2 ^ pw : Nat) : Int) := by
      exact_mod_cast hdiv.symm
    push_cast at hcast ⊢
    linarith
  have hmod : ((pointerDiff pw a b : Nat) : Int) = ((a : Int) - b) % 2 ^ pw := by
    rw [pointerDiff, Int.natCast_mod, hint]
    push_cast
    exact Int.add_mul_emod_self_left _ _ _
  rw [← hmod, Int.toNat_natCast]

/-- Settles O18: the three counts. -/
theorem fifoCountsArePointerDifferences : Obligations.FifoCountsArePointerDifferences := by
  rintro s q f pw rfl rfl
  simp only [← pointerDiff_eq_emod]
  exact ⟨rfl, rfl, rfl⟩

/-- Settles O19: the shift of each of the four places. -/
theorem synchroniserUpdateShiftsTheViews : Obligations.SynchroniserUpdateShiftsTheViews := by
  intro s late
  simp only [← sampled_eq_ite]
  exact ⟨rfl, rfl, rfl, rfl⟩

/-- Settles O20: the sample of each of the five crossings. -/
theorem sampleTakesOldOrNewValue : Obligations.SampleTakesOldOrNewValue := by
  intro s late
  simp only [← sampled_eq_ite]
  exact ⟨rfl, rfl, rfl, rfl, rfl⟩

/-! ### The operations of the edges (spec/41_transport.md R110 to R117, spec/42_relay.md R125) -/

theorem rxPush_of_full (d : Byte) {s : State} (h : s.rxq.full s.cfg.rxAw = true) :
    rxPush d s = s.observe (.drop .rxq d) := by
  simp [rxPush, aqPush, State.fifo, State.aw, h]

/-- Settles O22: store, drop, or nothing. -/
theorem receiveOperationsStoreDropOrIdle : Obligations.ReceiveOperationsStoreDropOrIdle := by
  intro s d
  refine ⟨fun hroom hwf => ⟨_, Memory.read_write .rxqMem hwf _ d, ?_⟩, fun hfull => ?_, rfl, rfl⟩
  · exact congrArg Host.Outcome.next (rxPush_of_room d hroom)
  · exact congrArg Host.Outcome.next (rxPush_of_full d hfull)

theorem txSend_of_empty {s : State} (h : s.txq.empty = true) : txSend s = txPark s := by
  simp [txSend, aqPop, State.fifo, h]

theorem ite_true_eq_or (a b : Bool) : (if a then true else b) = (a || b) := by
  cases a <;> rfl

/-- Settles O24: send, park, or keep. -/
theorem transmitOperationsSendParkOrIdle : Obligations.TransmitOperationsSendParkOrIdle := by
  intro s
  refine ⟨fun hbyte => ?_, fun hempty => ?_, rfl, ?_⟩
  · exact congrArg Host.Outcome.next (txSend_of_pending hbyte)
  · exact congrArg Host.Outcome.next (txSend_of_empty hempty)
  · rw [← ite_true_eq_or]; rfl

/-- Settles O25: the shift, and the set of `tx_ie`. -/
theorem armSynchroniserForcesEnable : Obligations.ArmSynchroniserForcesEnable := by
  intro s late
  rw [← ite_true_eq_or, ← sampled_eq_ite]; rfl

/-- Two pointers are no distance apart when they are equal modulo a turn. -/
theorem pointerDiff_eq_zero_iff_mod {pw a b : Nat} (hb : b < 2 ^ pw) : pointerDiff pw a b = 0 ↔ a % 2 ^ pw = b := by
  rw [← pointerDiff_eq_zero (Nat.mod_lt a (Nat.two_pow_pos pw)) hb, pointerDiff, pointerDiff, Nat.mod_add_mod]

/-- The request is whether the core's view of `txq` is non-empty. -/
theorem wrCount_bne_zero_eq (s : State) :
    (s.txq.wrCount s.cfg.txAw != 0) = (s.txq.wbin % 2 ^ (s.cfg.txAw + 1) != gray2bin (s.cfg.txAw + 1) s.txq.rq2) := by
  rw [Bool.eq_iff_iff, bne_iff_ne, bne_iff_ne, AsyncFifo.wrCount, Ne,
    pointerDiff_eq_zero_iff_mod (gray2bin_lt _ _)]

/-- The arm phase with the request as it stands. -/
theorem coreArm_of_same {s : State} (h : (s.txq.wrCount s.cfg.txAw != 0) = s.tr.armReq) :
    coreArm s = s.setPhase .pump := congrArg (fun u : State => u.setPhase .pump) (if_pos h)

/-- The arm phase with a request that has changed. -/
theorem coreArm_of_change {s : State} (h : (s.txq.wrCount s.cfg.txAw != 0) ≠ s.tr.armReq) :
    coreArm s = (s.setTr { s.tr with
      armReq := s.txq.wrCount s.cfg.txAw != 0, armPrev := s.tr.armReq, armFresh := true }).setPhase .pump :=
  congrArg (fun u : State => u.setPhase .pump) (if_neg h)

/-- Settles O27: after the arm phase the request stands as the view has it, so a second one changes nothing. -/
theorem armRequestsWhileDiagnosticsArePending : Obligations.ArmRequestsWhileDiagnosticsArePending := by
  intro s v hv
  rw [← wrCount_bne_zero_eq] at hv
  subst hv
  refine ⟨fun h => congrArg Host.Outcome.next (coreArm_of_same h.symm),
    fun h => congrArg Host.Outcome.next (coreArm_of_change (Ne.symm h)), fun t ht => ?_⟩
  obtain rfl : coreArm s = t := Host.Outcome.next.inj ht
  refine congrArg Host.Outcome.next ?_
  by_cases h : (s.txq.wrCount s.cfg.txAw != 0) = s.tr.armReq
  · rw [coreArm_of_same h]; exact coreArm_of_same h
  · rw [coreArm_of_change h]; exact coreArm_of_same rfl

/-- Settles O28: the byte is lost, staged, or not there. -/
theorem pumpMovesOneByte : Obligations.PumpMovesOneByte := by
  rintro s b rxq rfl rfl
  refine ⟨fun hbyte hfull => ?_, fun hbyte hroom hi hwf => ⟨_, Memory.read_write .stqMem hwf s.stq.inp _, ?_⟩,
    fun hempty => ?_⟩
  · exact congrArg toOut (pumpMove_of_full hbyte hfull)
  · exact congrArg toOut (pumpMove_of_room hbyte hroom hi)
  · exact congrArg toOut (pumpMove_of_empty hempty)

/-- Settles O29: both instructions are one record update of the phase. -/
theorem emptyPhasesOnlyAdvance : Obligations.EmptyPhasesOnlyAdvance := fun _ => ⟨rfl, rfl⟩

/-! ### Reset (spec/70_reset_and_hazards.md R220) -/

/-- Settles O37: the model writes Reset as this one record, the arrays kept. -/
theorem resetWritesEveryRegister : Obligations.ResetWritesEveryRegister := fun _ => rfl

/-- A cleared queue has its whole depth free in the view of its writer. -/
theorem AsyncFifo.cleared_not_full {aw : Nat} (haw : 1 ≤ aw) (m : Memory) : (AsyncFifo.cleared m).full aw = false := by
  have hinv := AsyncFifo.cleared_inv (aw := aw) (Memory.unwritten_wf _)
  have hcount : (AsyncFifo.cleared Memory.unwritten).wrCount aw ≠ 2 ^ aw := by
    rw [AsyncFifo.wrCount_of_settled hinv.coded ⟨rfl, rfl, rfl, rfl⟩ (pointerDiff_self _ 0)]
    exact (Nat.two_pow_pos aw).ne
  exact Bool.eq_false_iff.mpr (mt (AsyncFifo.full_iff haw hinv.coded).mp hcount)

/-- Settles O38: the ports of a state just reset. -/
theorem afterResetEverythingIsIdle : Obligations.AfterResetEverythingIsIdle :=
  fun s => ⟨resetStep s, rfl, AsyncFifo.cleared_not_full s.cfg.rxAw_pos _, rfl, rfl,
    AsyncFifo.cleared_not_full s.cfg.txAw_pos _, pointerDiff_self _ 0, pointerDiff_self _ 0, rfl, rfl, rfl, rfl, rfl,
    rfl, rfl, rfl, rfl, rfl⟩

end Sys2Proof.Machine
